-- ==== Sys2Proof/Word.lean ====
section
/-! DEFINITION. The two operand widths of the spec: 30_encoding.md R50, 00_scope.md section 6. -/

namespace Sys2Proof

/-- A byte: one record byte, one device register, one frame byte (00_scope.md section 7.1). -/
abbrev Byte := BitVec 8

/-- The width of the `year` operand (R50). -/
abbrev Half := BitVec 16

end Sys2Proof
end

