-- ==== Sys2Proof/Config.lean ====
section
/-! DEFINITION. What the spec leaves open: its named parameters (00_scope.md section 6) and the free values of
its unspecified cases (93_implementation_defined.md). -/

namespace Sys2Proof

/-- `ALARM_PAYLOAD`, the three admissible choices of what SETALM sends (R44, R92, D11). -/
inductive AlarmPayload where
  | first7
  | skipYear
  | all8
  deriving DecidableEq, Repr

/-- The OPEN parameters that a rule reads. They are fixed for a machine; State carries them because `exec`'s form
has no other place for an argument, and no step changes them. Log entry 9. -/
structure Params where
  /-- `ALARM_PAYLOAD` (R92). -/
  alarmPayload : AlarmPayload
  /-- `SETCMP_VALIDATES` (R74). -/
  setcmpValidates : Bool
  deriving DecidableEq, Repr

/-- The spec's defaults: `first7` and `false` (D11, D6). -/
def Params.default : Params := { alarmPayload := .first7, setcmpValidates := false }

/-- A byte the spec does not determine (U1 to U6): the n-th draw. No body, so nothing can be proved of its value.
Log entry 5. -/
opaque Config.freeByte : Nat → Byte

/-- The transport's answer to a transaction about which the environment has stated nothing (R26, U13): the n-th
draw; true is success. No body. Log entry 6. -/
opaque Config.transportAnswer : Nat → Bool

/-- `ID_SIGNATURE`, the two bytes expected at 0x28 and 0x29 (R123, D23, U14). No rule reads it. Log entry 9. -/
opaque Config.idSignature : Byte × Byte

end Sys2Proof
end

