-- ==== Sys2Proof/Syntax.lean ====
section
/-! DEFINITION. The seven commands (00_scope.md R2) with their operands (30_encoding.md R49 to R51). -/

namespace Sys2Proof

/-- The eight operands of SETDT and SETALM, in the order of the call (R49): plain binary, unsigned (R50). -/
structure DateTime where
  year : Half
  month : Byte
  day : Byte
  dow : Byte
  hour : Byte
  minute : Byte
  second : Byte
  hundredth : Byte
  deriving DecidableEq, Repr

/-- One constructor per row of the opcode table. -/
inductive Instr where
  /-- TOBCD d (R60). -/
  | tobcd (d : Byte)
  /-- FROMBCD b (R61). -/
  | frombcd (b : Byte)
  /-- SETDT with its eight operands (R70). -/
  | setdt (dt : DateTime)
  /-- SETCMP field, value; `field` is a record index, legal 0 to 7 (R51, R73). -/
  | setcmp (field : Byte) (value : Byte)
  /-- SYNC (R76). -/
  | sync
  /-- GETDT (R78). -/
  | getdt
  /-- SETALM with SETDT's eight operands (R90, R91). -/
  | setalm (dt : DateTime)
  deriving DecidableEq, Repr

end Sys2Proof
end

