-- ==== Sys2Proof/WellFormed.lean ====
section
/-! DEFINITION. Which instructions are legal encodings: 30_encoding.md R54. Operand values out of a field's range
are legal encodings; the one check is SETCMP's record index. -/

namespace Sys2Proof

/-- SETCMP's `field` is a record index, 0 to 7 (R51, R54). -/
def Instr.wellFormed : Instr → Bool
  | .tobcd _ => true
  | .frombcd _ => true
  | .setdt _ => true
  | .setcmp field _ => decide (field.toNat ≤ 7)
  | .sync => true
  | .getdt => true
  | .setalm _ => true

end Sys2Proof
end

