-- ==== Sys2Proof/Decode.lean ====
section
/-! DEFINITION. Command frames (30_encoding.md R48 to R51, R54): the decoder, total on any bytes and rejecting by
name, and the encoder written from the same table. -/

namespace Sys2Proof

/-- What the decoder finds at the head of the host's bytes; `rest` is what follows the bytes consumed. -/
inductive Decoded where
  /-- A legal frame. -/
  | command (i : Instr) (rest : List Byte)
  /-- An opcode byte outside the table: one byte is consumed (R54). -/
  | illegalOpcode (op : Byte) (rest : List Byte)
  /-- A SETCMP frame whose field is 8 to 255: three bytes are consumed (R54). -/
  | illegalField (field : Byte) (rest : List Byte)
  /-- The frame's bytes are not all there yet: nothing is consumed. Log entry 1. -/
  | incomplete
  deriving DecidableEq, Repr

/-- The opcode byte of each command (R49). -/
def opcode : Instr → Byte
  | .tobcd _ => 0x01
  | .frombcd _ => 0x02
  | .setdt _ => 0x10
  | .setcmp _ _ => 0x11
  | .sync => 0x12
  | .getdt => 0x13
  | .setalm _ => 0x20

/-- The frame length that an opcode byte alone fixes (R48, R49); none for an illegal opcode. -/
def frameLength (op : Byte) : Option Nat :=
  match op.toNat with
  | 0x01 => some 2
  | 0x02 => some 2
  | 0x10 => some 10
  | 0x11 => some 3
  | 0x12 => some 1
  | 0x13 => some 1
  | 0x20 => some 10
  | _ => none

/-- The nine operand bytes of a 10-byte frame: `year` most significant byte first, then one byte per operand
(R50). -/
def decodeDateTime : List Byte → Option (DateTime × List Byte)
  | yh :: yl :: mo :: da :: dw :: hh :: mi :: ss :: hu :: rest =>
    some (DateTime.mk (BitVec.ofNat 16 (256 * yh.toNat + yl.toNat)) mo da dw hh mi ss hu, rest)
  | _ => none

/-- The one-byte operand of a 2-byte frame. -/
def decodeByte (mk : Byte → Instr) : List Byte → Decoded
  | b :: rest => .command (mk b) rest
  | [] => .incomplete

/-- The two operand bytes of a 3-byte frame; the field check comes after all three bytes are taken (R54). -/
def decodeComponent : List Byte → Decoded
  | field :: value :: rest =>
    if field.toNat ≤ 7 then .command (.setcmp field value) rest else .illegalField field rest
  | _ => .incomplete

/-- The operands of SETDT and SETALM. -/
def decodeFields (mk : DateTime → Instr) (bs : List Byte) : Decoded :=
  match decodeDateTime bs with
  | some (dt, rest) => .command (mk dt) rest
  | none => .incomplete

/-- Read byte 0, then the operand bytes its opcode calls for (R48, R49, R54). -/
def decode : List Byte → Decoded
  | [] => .incomplete
  | op :: bs =>
    match op.toNat with
    | 0x01 => decodeByte .tobcd bs
    | 0x02 => decodeByte .frombcd bs
    | 0x10 => decodeFields .setdt bs
    | 0x11 => decodeComponent bs
    | 0x12 => .command .sync bs
    | 0x13 => .command .getdt bs
    | 0x20 => decodeFields .setalm bs
    | _ => .illegalOpcode op bs

/-- The operand bytes of SETDT and SETALM in frame order (R49, R50). -/
def encodeDateTime (dt : DateTime) : List Byte :=
  [BitVec.ofNat 8 (dt.year.toNat / 256), BitVec.ofNat 8 dt.year.toNat, dt.month, dt.day, dt.dow, dt.hour, dt.minute,
    dt.second, dt.hundredth]

/-- The operand bytes of a command. -/
def operandBytes : Instr → List Byte
  | .tobcd d => [d]
  | .frombcd b => [b]
  | .setdt dt => encodeDateTime dt
  | .setcmp field value => [field, value]
  | .sync => []
  | .getdt => []
  | .setalm dt => encodeDateTime dt

/-- The command's frame: opcode byte, then its operand bytes (R48). -/
def encode (i : Instr) : List Byte := opcode i :: operandBytes i

/-- The longest frame, in bytes (R49). -/
def longestFrame : Nat := 10

/-- The low `n` bytes of `w`, most significant first. -/
def bigEndianBytes : Nat → Nat → List Byte
  | 0, _ => []
  | n + 1, w => BitVec.ofNat 8 (w >>> (8 * n)) :: bigEndianBytes n w

/-- A table word of `nbits` bits as frame bytes, followed by zero bytes up to the longest frame. The table reads the
frame as one number with frame byte 0 most significant (`match_mask_convention`). Log entry 13. -/
def frameOfTableWord (nbits w : Nat) : List Byte :=
  bigEndianBytes (nbits / 8) w ++ List.replicate (longestFrame - nbits / 8) 0

/-- The instruction the decoder reads from a table word. -/
def decodeTableWord (nbits w : Nat) : Option Instr :=
  match decode (frameOfTableWord nbits w) with
  | .command i _ => some i
  | .illegalOpcode _ _ => none
  | .illegalField _ _ => none
  | .incomplete => none

end Sys2Proof
end

