-- ==== Sys2Proof/Machine/State.lean ====
section
/-! DEFINITION. The machine's state as plain data: 10_state.md, 20_memory.md R20, 30_encoding.md R52. -/

namespace Sys2Proof.Machine

/-- The eight fields of the record, in device-transfer order (R10, R11), under the spec's short names. -/
inductive RecField where
  | hund
  | sec
  | minute
  | hour
  | date
  | month
  | year
  | wday
  deriving DecidableEq, Repr

/-- One byte of the record with its "written" mark (00_scope.md section 5, R120). While the mark is false the byte
holds no determined value, and no step reads `val`. -/
structure RecByte where
  val : Byte
  written : Bool
  deriving DecidableEq, Repr

/-- The record `REC[0..7]` (R10, R11); an arbitrary byte in each place, not a value in range (R13). -/
structure Record where
  hund : RecByte
  sec : RecByte
  minute : RecByte
  hour : RecByte
  date : RecByte
  month : RecByte
  year : RecByte
  wday : RecByte
  deriving DecidableEq, Repr

/-- The device's registers, as (address, byte) pairs: the registers that hold a determined value. -/
abbrev Memory := List Host.Cell

/-- The status byte of a response (R52). -/
inductive Status where
  | ok
  | fail
  | illegal
  deriving DecidableEq, Repr

/-- A response: its status, then its data bytes (R52). -/
structure Response where
  status : Status
  data : List Byte
  deriving DecidableEq, Repr

/-- A transport transaction with its result (R23, R24, R26). -/
inductive Transaction where
  /-- `MemRead(addr, count)`: the bytes delivered, or none for a failure. -/
  | read (addr count : Nat) (result : Option (List Byte))
  /-- `MemWrite(addr, length, bytes)`: whether the transport said success. -/
  | write (addr : Nat) (bytes : List Byte) (success : Bool)
  deriving DecidableEq, Repr

/-- The closed system the host's `step : State → Outcome` runs: the block, the device behind the transport, the ports and
the environment's stated inputs. The block's own state (R10, R19) is `record` alone; `blockStep` is the block with the
command, the parameters and the transport's answer as arguments and the response as a result. -/
structure State where
  /-- The block's whole architectural state (R10). -/
  record : Record
  /-- The device's registers (R20, R29); a register that is not listed holds no determined value. Log entry 7. -/
  dev : Memory
  /-- The frame bytes the host has issued and the block has not taken (R48). Log entry 1. -/
  inbox : List Byte
  /-- The responses given, newest first (R52). Log entry 10. -/
  outbox : List Response
  /-- The transactions issued, newest first (R31, R33). Log entry 10. -/
  trace : List Transaction
  /-- The transport's stated answers, next first (R26); past their end the answer is free. Log entry 6. -/
  answers : List Bool
  /-- The device's own stated changes, one entry a step (R29); past their end anything may change. Log entry 7. -/
  deviceChanges : List (List Host.Cell)
  /-- How many free values have been drawn: the model's own counter. Log entry 5. -/
  draws : Nat
  /-- The spec's OPEN parameters; no step changes them. Log entry 9. -/
  params : Params
  deriving DecidableEq, Repr

/-- The machine has no trap, no fault and no stuck state (R104, 93_implementation_defined.md part 1), so there is no
reason to list: nobody raises a fault. -/
inductive Fault
  deriving DecidableEq, Repr

/-- Why a step gives an instruction no meaning. -/
inductive Refusal where
  /-- An instruction without a meaning yet; raised by an arm of `exec` alone, and no arm raises it. Safe: it can
  only leave a claim unproved. -/
  | notModelled (mnemonic : String)
  deriving DecidableEq, Repr

/-- A record byte right after reset: unwritten (R120). The stored byte is a placeholder. DESIGN CHOICE, unsafe: log
entry 2. -/
def RecByte.reset : RecByte := { val := 0, written := false }

/-- The record right after reset (R120). -/
def Record.reset : Record :=
  { hund := .reset, sec := .reset, minute := .reset, hour := .reset, date := .reset, month := .reset,
    year := .reset, wday := .reset }

/-- The machine right after reset: an unwritten record, the device as it was (nothing known of it), nothing issued
and nothing answered (R120 to R122), the default parameters. -/
def State.reset : State :=
  { record := .reset, dev := [], inbox := [], outbox := [], trace := [], answers := [], deviceChanges := [],
    draws := 0, params := .default }

end Sys2Proof.Machine
end

