-- ==== Sys2Proof/Machine/RegisterMap.lean ====
section
/-! DEFINITION. The device's register map: 20_memory.md R20 to R22. It is static configuration data, not state. -/

namespace Sys2Proof.Machine

/-- The registers DOC names (R20). The seven alarm-compare registers mirror time registers 0x00 to 0x06 (R22). -/
inductive RegisterName where
  | hundredths
  | seconds
  | minutes
  | hours
  | date
  | months
  | years
  | weekdays
  | alarmHundredths
  | alarmSeconds
  | alarmMinutes
  | alarmHours
  | alarmDate
  | alarmMonths
  | alarmLast
  | status
  | control1
  | control2
  | interruptMask
  | sleepControl
  | countdownControl
  | countdownValue
  | countdownInitialValue
  | oscillatorControl
  | oscillatorStatus
  | configurationKey
  | identification0
  | identification1
  deriving DecidableEq, Repr

/-- The partitions of the register space (R20). -/
inductive Partition where
  | time
  | alarmCompare
  | statusControl
  | oscillatorCalibration
  | writeProtectionKey
  | identification
  deriving DecidableEq, Repr

/-- Each named register's address (R20). -/
def RegisterName.address : RegisterName → Nat
  | .hundredths => 0x00
  | .seconds => 0x01
  | .minutes => 0x02
  | .hours => 0x03
  | .date => 0x04
  | .months => 0x05
  | .years => 0x06
  | .weekdays => 0x07
  | .alarmHundredths => 0x08
  | .alarmSeconds => 0x09
  | .alarmMinutes => 0x0A
  | .alarmHours => 0x0B
  | .alarmDate => 0x0C
  | .alarmMonths => 0x0D
  | .alarmLast => 0x0E
  | .status => 0x0F
  | .control1 => 0x10
  | .control2 => 0x11
  | .interruptMask => 0x12
  | .sleepControl => 0x17
  | .countdownControl => 0x18
  | .countdownValue => 0x19
  | .countdownInitialValue => 0x1A
  | .oscillatorControl => 0x1C
  | .oscillatorStatus => 0x1D
  | .configurationKey => 0x1F
  | .identification0 => 0x28
  | .identification1 => 0x29

/-- Each named register's partition (R20). -/
def RegisterName.partition : RegisterName → Partition
  | .hundredths | .seconds | .minutes | .hours | .date | .months | .years | .weekdays => .time
  | .alarmHundredths | .alarmSeconds | .alarmMinutes | .alarmHours | .alarmDate | .alarmMonths
  | .alarmLast => .alarmCompare
  | .status | .control1 | .control2 | .interruptMask | .sleepControl | .countdownControl | .countdownValue
  | .countdownInitialValue => .statusControl
  | .oscillatorControl | .oscillatorStatus => .oscillatorCalibration
  | .configurationKey => .writeProtectionKey
  | .identification0 | .identification1 => .identification

/-- The last address of the register space (R20). -/
def lastRegister : Nat := 0x30

/-- `TIME_BASE`: the first time register (R21, 00_scope.md section 6). -/
def timeBase : Nat := RegisterName.hundredths.address

/-- `ALARM_BASE`: the first alarm-compare register (R22, 00_scope.md section 6). -/
def alarmBase : Nat := RegisterName.alarmHundredths.address

end Sys2Proof.Machine
end

