-- ==== Sys2Proof/Machine/Ops.lean ====
section
/-! DEFINITION. The named operations over the record, the device's registers, the transport and the ports. -/

namespace Sys2Proof.Machine

/-! The record (R10, R11). -/

/-- A byte a rule has given a determined value (R120). -/
def RecByte.determined (b : Byte) : RecByte := { val := b, written := true }

/-- `REC[i]` by field. -/
def Record.get (r : Record) : RecField → RecByte
  | .hund => r.hund
  | .sec => r.sec
  | .minute => r.minute
  | .hour => r.hour
  | .date => r.date
  | .month => r.month
  | .year => r.year
  | .wday => r.wday

/-- `REC[i] <- v` by field. -/
def Record.set (r : Record) (f : RecField) (b : RecByte) : Record :=
  match f with
  | .hund => { r with hund := b }
  | .sec => { r with sec := b }
  | .minute => { r with minute := b }
  | .hour => { r with hour := b }
  | .date => { r with date := b }
  | .month => { r with month := b }
  | .year => { r with year := b }
  | .wday => { r with wday := b }

/-- A field's record index, which is its time register's offset (R11, R21, R51). -/
def RecField.index : RecField → Nat
  | .hund => 0
  | .sec => 1
  | .minute => 2
  | .hour => 3
  | .date => 4
  | .month => 5
  | .year => 6
  | .wday => 7

/-- The eight fields in device-transfer order (R10). -/
def RecField.all : List RecField := [.hund, .sec, .minute, .hour, .date, .month, .year, .wday]

/-- The record whose byte for each field is given by `f`. -/
def Record.build (f : RecField → RecByte) : Record :=
  { hund := f .hund, sec := f .sec, minute := f .minute, hour := f .hour, date := f .date, month := f .month,
    year := f .year, wday := f .wday }

/-- `REC[0..7] <- r` for the eight bytes of a successful read (R28, R73, R78): every byte determined. -/
def Record.snapshot (bs : List Byte) : Record := Record.build fun f => .determined (bs.getD f.index 0)

/-- `REC[0..7] <- unspecified` (R75, R79): free values number `k` to `k + 7`, none of them determined. -/
def Record.unspecified (k : Nat) : Record :=
  Record.build fun f => { val := Config.freeByte (k + f.index), written := false }

/-- What a read of a record byte gives: its value where it is determined; otherwise free value number `k`, a fresh one
for each read, because R120 does not even require two reads to agree. Log entry 3. -/
def RecByte.sent (b : RecByte) (k : Nat) : Byte := if b.written then b.val else Config.freeByte k

/-- `[REC[0], …, REC[7]]` as a transaction sends it (R76), drawing from free value number `k` on. -/
def Record.sentBytes (r : Record) (k : Nat) : List Byte :=
  RecField.all.map fun f => (r.get f).sent (k + f.index)

/-! The device's registers (R20). -/

/-- The determined value of a register, if it holds one. -/
def Memory.read : Memory → Nat → Option Byte
  | [], _ => none
  | (b, v) :: rest, a => if a = b then some v else Memory.read rest a

/-- Give register `a` the determined value `v`. -/
def Memory.write : Memory → Nat → Byte → Memory
  | [], a, v => [(a, v)]
  | (b, w) :: rest, a, v =>
    if a < b then (a, v) :: (b, w) :: rest
    else if a = b then (a, v) :: rest
    else (b, w) :: Memory.write rest a v

/-- Register `a` no longer holds a determined value. -/
def Memory.forget (m : Memory) (a : Nat) : Memory := m.filter fun c => c.1 != a

/-- Addresses strictly rise from `lo` and stay within the register space. -/
def Memory.risingFrom : Nat → Memory → Bool
  | _, [] => true
  | lo, (a, _) :: rest => decide (lo ≤ a) && decide (a ≤ lastRegister) && Memory.risingFrom (a + 1) rest

/-- The canonical form: addresses strictly rising and at most 0x30. A listed register is a determined one, so no entry
repeats what an unlisted address reads as. -/
def Memory.wf (m : Memory) : Bool := m.risingFrom 0

/-- A successful `MemWrite`: element `k` to register `addr + k` (R24, R28). -/
def Memory.writeRun : Memory → Nat → List Byte → Memory
  | m, _, [] => m
  | m, addr, b :: bs => Memory.writeRun (m.write addr b) (addr + 1) bs

/-- A failed `MemWrite`: each of the `n` registers from `addr` holds an unspecified value, no other register changes
(R27, U5). -/
def Memory.forgetRun : Memory → Nat → Nat → Memory
  | m, _, 0 => m
  | m, addr, n + 1 => Memory.forgetRun (m.forget addr) (addr + 1) n

/-- The `n` bytes a successful `MemRead` delivers: element `k` is the content of register `addr + k` (R23), a free value
where the register holds no determined one (R29, U13), drawn from free value number `d` on. -/
def Memory.deliver (m : Memory) : Nat → Nat → Nat → List Byte
  | _, 0, _ => []
  | addr, n + 1, d => (m.read addr).getD (Config.freeByte d) :: Memory.deliver m (addr + 1) n (d + 1)

/-- The device's own changes (R29), those to addresses outside the register space ignored. -/
def Memory.applyChanges : Memory → List Host.Cell → Memory
  | m, [] => m
  | m, (a, v) :: cs => Memory.applyChanges (if a ≤ lastRegister then m.write a v else m) cs

/-! Updates of one part of the state. -/

/-- Replace the record. -/
def State.setRecord (s : State) (r : Record) : State := { s with record := r }

/-- Replace the device's registers. -/
def State.setDev (s : State) (m : Memory) : State := { s with dev := m }

/-- Take bytes from the command port, leaving `rest`. -/
def State.setInbox (s : State) (rest : List Byte) : State := { s with inbox := rest }

/-- Count `n` free values as drawn. -/
def State.spend (s : State) (n : Nat) : State := { s with draws := s.draws + n }

/-- Note an issued transaction. -/
def State.log (s : State) (t : Transaction) : State := { s with trace := t :: s.trace }

/-- Give the command's response (R52). -/
def State.respond (s : State) (r : Response) : State := { s with outbox := r :: s.outbox }

/-- Free values number `k` to `k + n - 1`. -/
def freeBytes : Nat → Nat → List Byte
  | _, 0 => []
  | k, n + 1 => Config.freeByte k :: freeBytes (k + 1) n

/-- The response to every illegal frame (R52, R54, R102). -/
def illegalResponse : Response := { status := .illegal, data := [] }

/-- The effect of every illegal frame: ILLEGAL and nothing else (R54, R102). -/
def State.respondIllegal (s : State) : State := s.respond illegalResponse

/-! The transport (R23 to R27). -/

/-- The transport's answer to the next transaction (R26): the stated one, else a free one. -/
def State.transportAnswer (s : State) : Bool :=
  match s.answers with
  | a :: _ => a
  | [] => Config.transportAnswer s.draws

/-- The state once that answer is used up. -/
def State.afterAnswer (s : State) : State :=
  match s.answers with
  | _ :: rest => { s with answers := rest }
  | [] => s.spend 1

/-- `MemRead(addr, n)` (R23): the bytes delivered, or none; the device is not changed (R27). -/
def State.memRead (s : State) (addr n : Nat) : Option (List Byte) × State :=
  let s1 := s.afterAnswer
  match s.transportAnswer with
  | true =>
    let bs := s1.dev.deliver addr n s1.draws
    (some bs, (s1.spend n).log (.read addr n (some bs)))
  | false => (none, s1.log (.read addr n none))

/-- `MemWrite(addr, length bs, bs)` (R24): whether it succeeded; no retry and no rollback after a failure (R26). -/
def State.memWrite (s : State) (addr : Nat) (bs : List Byte) : Bool × State :=
  let s1 := s.afterAnswer
  match s.transportAnswer with
  | true => (true, (s1.setDev (s1.dev.writeRun addr bs)).log (.write addr bs true))
  | false => (false, (s1.setDev (s1.dev.forgetRun addr bs.length)).log (.write addr bs false))

/-- The device's own changes before a command (R29): the stated ones; with nothing stated, any register may hold
anything. Log entry 7. -/
def State.deviceMoves (s : State) : State :=
  match s.deviceChanges with
  | c :: rest => { s with dev := s.dev.applyChanges c, deviceChanges := rest }
  | [] => s.setDev []

/-- The host's frame bytes put where the block takes its next frame. -/
def State.hostSendsFirst (s : State) (bs : List Byte) : State := s.setInbox (bs ++ s.inbox)

end Sys2Proof.Machine
end

