-- ==== Sys2Proof/Machine/Block.lean ====
section
/-! DEFINITION. What a command is to the block (10_state.md R10, R19): the block's state is the record and nothing else; the
command, its operands, the parameters and the transport's answer are arguments; the response and the transaction are
results. `State.carryOut` joins the block to the transport with the device behind it and to the host's ports. -/

namespace Sys2Proof.Machine

/-- How a command ends: the record it leaves, its response, and how many free values it has used. -/
structure Ending where
  record : Record
  response : Response
  drawn : Nat

/-- What the block does with a command (R19): it ends at once, or it asks the transport for its one transaction (R31) and
ends as the answer says. -/
inductive Plan where
  /-- No transaction. -/
  | answer (e : Ending)
  /-- `MemRead(addr, n)`; `onReply` is given the number of the next free value and the transport's answer (R23). -/
  | read (addr n : Nat) (onReply : Nat → Option (List Byte) → Ending)
  /-- `MemWrite(addr, length bytes, bytes)`; `onReply` is given the transport's answer (R24). -/
  | write (addr : Nat) (bytes : List Byte) (onReply : Bool → Ending)

/-- The system once the block has ended a command: the new record, the response at the port. -/
def State.finish (s : State) (e : Ending) : State := ((s.spend e.drawn).setRecord e.record).respond e.response

/-- The block's command carried out against the transport and the device. -/
def State.carryOut (s : State) : Plan → State
  | .answer e => s.finish e
  | .read addr n onReply => (s.memRead addr n).2.finish (onReply (s.memRead addr n).2.draws (s.memRead addr n).1)
  | .write addr bytes onReply => (s.memWrite addr bytes).2.finish (onReply (s.memWrite addr bytes).1)

end Sys2Proof.Machine
end

