-- ==== Sys2Proof/Machine/Flags.lean ====
section
/-! DEFINITION. The block keeps no flag (10_state.md R16). A command's one result bit is the status of its response
(30_encoding.md R52), and this file holds the computations of it. -/

namespace Sys2Proof.Machine

/-- The status byte's value (R52). -/
def Status.code : Status → Byte
  | .ok => 0x01
  | .fail => 0x00
  | .illegal => 0xFF

/-- The response as the frame the host receives: status byte, then data (R52). -/
def Response.frame (r : Response) : List Byte := r.status.code :: r.data

/-- DOC's boolean as a status (R52). -/
def statusOf (success : Bool) : Status := if success then .ok else .fail

/-- The one way a command reports DOC's boolean: same-call status, no cause, no data (R53, R100, R101, R104). -/
def reportOf (success : Bool) : Response := { status := statusOf success, data := [] }

/-- A response whose `n` data bytes are unspecified (U1, U2, U6): free values from number `k` on. -/
def freeResponse (st : Status) (k n : Nat) : Response := { status := st, data := freeBytes k n }

end Sys2Proof.Machine
end

