-- ==== Sys2Proof/Machine/Operands.lean ====
section
/-! DEFINITION. Operand forms: the fields' operands, ranges and stored values (10_state.md R12, 30_encoding.md R42, R50,
R51) and the field SETCMP selects. -/

namespace Sys2Proof.Machine

/-- `YEAR_BASE` (00_scope.md section 6, R42). -/
def yearBase : Nat := 2000

/-- A field's operand in SETDT and SETALM, as a natural number (R50). -/
def fieldOperand (d : DateTime) : RecField → Nat
  | .hund => d.hundredth.toNat
  | .sec => d.second.toNat
  | .minute => d.minute.toNat
  | .hour => d.hour.toNat
  | .date => d.day.toNat
  | .month => d.month.toNat
  | .year => d.year.toNat
  | .wday => d.dow.toNat

/-- The least and the greatest value of a field as the record holds it: R12, with the year as its offset (R42). -/
def storedRange : RecField → Nat × Nat
  | .hund => (0, 99)
  | .sec => (0, 59)
  | .minute => (0, 59)
  | .hour => (0, 23)
  | .date => (1, 31)
  | .month => (1, 12)
  | .year => (0, 99)
  | .wday => (0, 6)

/-- `a ≤ x ≤ b` on natural numbers (R64). -/
def withinRange (r : Nat × Nat) (x : Nat) : Bool := decide (r.1 ≤ x) && decide (x ≤ r.2)

/-- What is added to a stored value to give the operand: 2000 for the year, else nothing (R42). -/
def operandBase : RecField → Nat
  | .year => yearBase
  | .hund | .sec | .minute | .hour | .date | .month | .wday => 0

/-- The range check of one operand of SETDT and SETALM (R12, R70). -/
def operandInRange (d : DateTime) (f : RecField) : Bool :=
  withinRange ((storedRange f).1 + operandBase f, (storedRange f).2 + operandBase f) (fieldOperand d f)

/-- The decimal value stored for an operand that has passed its check: the year's offset from 2000, any other operand as
it is (R42, R70). The 16-bit subtraction never borrows, because the check comes first (R64). -/
def storedValue (d : DateTime) : RecField → Nat
  | .year => (d.year - BitVec.ofNat 16 yearBase).toNat
  | .hund => d.hundredth.toNat
  | .sec => d.second.toNat
  | .minute => d.minute.toNat
  | .hour => d.hour.toNat
  | .date => d.day.toNat
  | .month => d.month.toNat
  | .wday => d.dow.toNat

/-- The fixed order in which SETDT validates (R70). -/
def validationOrder : List RecField := [.year, .month, .date, .wday, .hour, .minute, .sec, .hund]

/-- The field a SETCMP index selects (R51); indexes above 7 are illegal frames and select nothing. -/
def fieldOfIndex (n : Nat) : Option RecField := RecField.all[n]?

/-- `InRange(field, value)` of SETCMP under `SETCMP_VALIDATES` (R74). -/
def componentInRange (f : RecField) (value : Byte) : Bool := withinRange (storedRange f) value.toNat

end Sys2Proof.Machine
end

