-- ==== Sys2Proof/Machine/Codec.lean ====
section
/-! DEFINITION. The BCD codec: 40_bcd_codec.md, TOBCD and FROMBCD. -/

namespace Sys2Proof.Machine

/-- `b[7:4]`. UNVERIFIED: "high nibble" means these bits, 93_implementation_defined.md G1, log entry 12. -/
def highNibble (b : Byte) : Nat := (b.extractLsb' 4 4).toNat

/-- `b[3:0]`. -/
def lowNibble (b : Byte) : Nat := (b.extractLsb' 0 4).toNat

/-- A BCD byte: both nibbles at most 9 (R40). -/
def isBcd (b : Byte) : Bool := decide (highNibble b ≤ 9) && decide (lowNibble b ≤ 9)

/-- `toBCD(d)` for `d` in 0 to 99 (R60); its callers check the domain (R135). -/
def toBcd (d : Nat) : Byte := BitVec.ofNat 8 (((d / 10) <<< 4) ||| (d % 10))

/-- `fromBCD(b)` for a BCD byte (R61); its callers check the domain. -/
def fromBcd (b : Byte) : Nat := 10 * highNibble b + lowNibble b

/-- TOBCD (R60); above 99 the data byte is a free value (U1, log entries 3 and 4). -/
def tobcdPlan (d : Byte) (free : Nat) (r : Record) : Plan :=
  if d.toNat ≤ 99 then .answer { record := r, response := { status := .ok, data := [toBcd d.toNat] }, drawn := 0 }
  else .answer { record := r, response := freeResponse .ok free 1, drawn := 1 }

/-- FROMBCD (R61); for a non-BCD byte the data byte is a free value (U2, log entries 3 and 4). -/
def frombcdPlan (b : Byte) (free : Nat) (r : Record) : Plan :=
  match isBcd b with
  | true => .answer { record := r, response := { status := .ok, data := [BitVec.ofNat 8 (fromBcd b)] }, drawn := 0 }
  | false => .answer { record := r, response := freeResponse .ok free 1, drawn := 1 }

/-- TOBCD d. -/
def execTobcd (d : Byte) (s : State) : Host.Outcome State Fault Refusal :=
  .next (s.carryOut (tobcdPlan d s.draws s.record))

/-- FROMBCD b. -/
def execFrombcd (b : Byte) (s : State) : Host.Outcome State Fault Refusal :=
  .next (s.carryOut (frombcdPlan b s.draws s.record))

end Sys2Proof.Machine
end

