-- ==== Sys2Proof/Machine/DateTimeModel.lean ====
section
/-! DEFINITION. The DateTime model: 41_datetime_model.md, SETDT, SETCMP, SYNC and GETDT, and the procedure `Encode`
that SETALM shares. -/

namespace Sys2Proof.Machine

/-- `Encode` over a list of fields (R70): each field that passes is stored at once; the first that fails ends it, and
what was stored stays (R71). -/
def encodeFields (d : DateTime) : List RecField → Record → Bool × Record
  | [], r => (true, r)
  | f :: fs, r =>
    if operandInRange d f then encodeFields d fs (r.set f (.determined (toBcd (storedValue d f)))) else (false, r)

/-- `Encode` (R70): success or failure, and the record it leaves. -/
def encodeRecord (d : DateTime) (r : Record) : Bool × Record := encodeFields d validationOrder r

/-- SETDT (R70): no transaction. -/
def setdtPlan (d : DateTime) (r : Record) : Plan :=
  .answer { record := (encodeRecord d r).2, response := reportOf (encodeRecord d r).1, drawn := 0 }

/-- The last part of SETCMP, on the record `r` that the snapshot has become (R73, R74); a value above 99 leaves the field
without a determined value (U3). -/
def setcmpStore (p : Params) (f : RecField) (value : Byte) (free : Nat) (r : Record) : Ending :=
  match p.setcmpValidates && !componentInRange f value with
  | true => { record := r, response := reportOf false, drawn := 0 }
  | false =>
    if value.toNat ≤ 99 then
      { record := r.set f (.determined (toBcd value.toNat)), response := reportOf true, drawn := 0 }
    else
      { record := r.set f { val := Config.freeByte free, written := false }, response := reportOf true, drawn := 1 }

/-- How SETCMP ends on the answer to its read (R73, R75). -/
def setcmpReply (p : Params) (f : RecField) (value : Byte) (free : Nat) : Option (List Byte) → Ending
  | some bs => setcmpStore p f value free (Record.snapshot bs)
  | none => { record := Record.unspecified free, response := reportOf false, drawn := 8 }

/-- SETCMP: an illegal field is answered before any transaction (R54, R103). -/
def setcmpPlan (p : Params) (field value : Byte) (r : Record) : Plan :=
  match fieldOfIndex field.toNat with
  | some f => .read timeBase 8 (setcmpReply p f value)
  | none => .answer { record := r, response := illegalResponse, drawn := 0 }

/-- SYNC (R76, R77): the whole record in one write, unvalidated; the status is the transport's. -/
def syncPlan (free : Nat) (r : Record) : Plan :=
  .write timeBase (r.sentBytes free) fun success => { record := r, response := reportOf success, drawn := 8 }

/-- The character code of a decimal digit. UNVERIFIED: ASCII, R47 and G3, log entry 11. -/
def digitChar (n : Nat) : Byte := BitVec.ofNat 8 (0x30 + n)

/-- `dd(v)`: tens digit, then ones digit (R46). -/
def twoDigits (v : Nat) : List Byte := [digitChar (v / 10), digitChar (v % 10)]

/-- The two digits of a field of the record. -/
def fieldDigits (r : Record) (f : RecField) : List Byte := twoDigits (fromBcd (r.get f).val)

/-- The 19 characters `YYYY-MM-DDTHH:MM:SS`, century 20 (R45); codes as in R47. -/
def renderText (r : Record) : List Byte :=
  [0x32, 0x30] ++ fieldDigits r .year ++ [0x2D] ++ fieldDigits r .month ++ [0x2D] ++ fieldDigits r .date ++ [0x54]
    ++ fieldDigits r .hour ++ [0x3A] ++ fieldDigits r .minute ++ [0x3A] ++ fieldDigits r .sec

/-- Whether all eight bytes decode (R78, R79). -/
def allBcd (r : Record) : Bool := RecField.all.all fun f => isBcd (r.get f).val

/-- GETDT's end on the record `r` of the bytes read (R78); with a non-BCD byte the text is free (R79, U2). -/
def getdtRender (free : Nat) (r : Record) : Ending :=
  match allBcd r with
  | true => { record := r, response := { status := .ok, data := renderText r }, drawn := 0 }
  | false => { record := r, response := freeResponse .ok free 19, drawn := 19 }

/-- How GETDT ends on the answer to its read (R78, R79); after a failed read record and text are unspecified (U6). -/
def getdtReply (free : Nat) : Option (List Byte) → Ending
  | some bs => getdtRender free (Record.snapshot bs)
  | none => { record := Record.unspecified free, response := freeResponse .fail (free + 8) 19, drawn := 27 }

/-- GETDT (R78). -/
def getdtPlan : Plan := .read timeBase 8 getdtReply

/-- SETDT year, month, day, dow, hour, minute, second, hundredth. -/
def execSetdt (d : DateTime) (s : State) : Host.Outcome State Fault Refusal := .next (s.carryOut (setdtPlan d s.record))

/-- SETCMP field, value. -/
def execSetcmp (field value : Byte) (s : State) : Host.Outcome State Fault Refusal :=
  .next (s.carryOut (setcmpPlan s.params field value s.record))

/-- SYNC. -/
def execSync (s : State) : Host.Outcome State Fault Refusal := .next (s.carryOut (syncPlan s.draws s.record))

/-- GETDT. -/
def execGetdt (s : State) : Host.Outcome State Fault Refusal := .next (s.carryOut getdtPlan)

end Sys2Proof.Machine
end

