-- ==== Sys2Proof/Machine/Alarm.lean ====
section
/-! DEFINITION. The alarm-compare encoder: 42_alarm_compare.md, SETALM. -/

namespace Sys2Proof.Machine

/-- The record bytes each `ALARM_PAYLOAD` selects, in the order sent (R44, R92). -/
def payloadFields : AlarmPayload → List RecField
  | .first7 => [.hund, .sec, .minute, .hour, .date, .month, .year]
  | .skipYear => [.hund, .sec, .minute, .hour, .date, .month, .wday]
  | .all8 => [.hund, .sec, .minute, .hour, .date, .month, .year, .wday]

/-- `ALARM_PAYLOAD(REC)` (R44). SETALM applies it to a record whose eight bytes `Encode` has just written. -/
def alarmBytes (p : AlarmPayload) (r : Record) : List Byte := (payloadFields p).map fun f => (r.get f).val

/-- SETALM (R90, R93): validation comes first and decides whether there is a transaction. -/
def setalmPlan (p : Params) (d : DateTime) (r : Record) : Plan :=
  match (encodeRecord d r).1 with
  | true =>
    .write alarmBase (alarmBytes p.alarmPayload (encodeRecord d r).2) fun success =>
      { record := (encodeRecord d r).2, response := reportOf success, drawn := 0 }
  | false => .answer { record := (encodeRecord d r).2, response := reportOf false, drawn := 0 }

/-- SETALM year, month, day, dow, hour, minute, second, hundredth. -/
def execSetalm (d : DateTime) (s : State) : Host.Outcome State Fault Refusal :=
  .next (s.carryOut (setalmPlan s.params d s.record))

end Sys2Proof.Machine
end

