-- ==== Sys2Proof/Machine/Dispatch.lean ====
section
/-! DEFINITION. One arm per command (00_scope.md R2). -/

namespace Sys2Proof.Machine

/-- What a command does to the state. -/
def exec (i : Instr) (s : State) : Host.Outcome State Fault Refusal :=
  match i with
  | .tobcd d => Sys2Proof.Machine.execTobcd d s
  | .frombcd b => Sys2Proof.Machine.execFrombcd b s
  | .setdt dt => Sys2Proof.Machine.execSetdt dt s
  | .setcmp field value => Sys2Proof.Machine.execSetcmp field value s
  | .sync => Sys2Proof.Machine.execSync s
  | .getdt => Sys2Proof.Machine.execGetdt s
  | .setalm dt => Sys2Proof.Machine.execSetalm dt s

end Sys2Proof.Machine
end

