-- ==== Sys2Proof/Machine/Step.lean ====
section
/-! DEFINITION. One step: the device's own changes, then the host's next frame (00_scope.md R3, R4; 30_encoding.md
R48, R54). -/

namespace Sys2Proof.Machine

/-- The device moves (R29); then the next frame is decoded and run, an illegal frame is answered ILLEGAL (R54), and an
empty or incomplete one is waited for (R121, log entry 1). -/
def step (s : State) : Host.Outcome State Fault Refusal :=
  let s1 := s.deviceMoves
  match decode s1.inbox with
  | .command i rest => exec i (s1.setInbox rest)
  | .illegalOpcode _ rest => .next (s1.setInbox rest).respondIllegal
  | .illegalField _ rest => .next (s1.setInbox rest).respondIllegal
  | .incomplete => .next s1

/-- `s` with the table word's frame at the head of the command port. Log entries 1 and 13. -/
def State.withFetchWord (s : State) (nbits w : Nat) : State := s.hostSendsFirst (frameOfTableWord nbits w)

end Sys2Proof.Machine
end

