-- ==== Sys2Proof/Safety.lean ====
section
/-! DEFINITION. The terms claims are stated in: the spec's own ranges and orders written out, what the host owes a
command, what a safe run is, and the invariant. -/

namespace Sys2Proof.Safety

open Sys2Proof.Machine

/-- A step or command that ends in no fault and no refusal. -/
def Completes (o : Host.Outcome State Fault Refusal) : Prop := ∃ t, o = .next t

/-- The legal range of each operand of SETDT and SETALM, all bounds included (R12). -/
def Valid (d : DateTime) : RecField → Prop
  | .year => 2000 ≤ d.year.toNat ∧ d.year.toNat ≤ 2099
  | .month => 1 ≤ d.month.toNat ∧ d.month.toNat ≤ 12
  | .date => 1 ≤ d.day.toNat ∧ d.day.toNat ≤ 31
  | .wday => d.dow.toNat ≤ 6
  | .hour => d.hour.toNat ≤ 23
  | .minute => d.minute.toNat ≤ 59
  | .sec => d.second.toNat ≤ 59
  | .hund => d.hundredth.toNat ≤ 99

/-- All eight operands are in range. -/
def AllValid (d : DateTime) : Prop := ∀ f, Valid d f

/-- A field's place in the order year, month, day, dayOfWeek, hour, minute, second, hundredth (R70). -/
def rank : RecField → Nat
  | .year => 0
  | .month => 1
  | .date => 2
  | .wday => 3
  | .hour => 4
  | .minute => 5
  | .sec => 6
  | .hund => 7

/-- The field's operand and every operand before it in the order are in range: the field is reached and passes. -/
def Reached (d : DateTime) (f : RecField) : Prop := ∀ g, rank g ≤ rank f → Valid d g

/-- The legal range of SETCMP's value under `SETCMP_VALIDATES`: R12's, and 0 to 99 for the year (R74). -/
def ValidComponent (v : Nat) : RecField → Prop
  | .year => v ≤ 99
  | .month => 1 ≤ v ∧ v ≤ 12
  | .date => 1 ≤ v ∧ v ≤ 31
  | .wday => v ≤ 6
  | .hour => v ≤ 23
  | .minute => v ≤ 59
  | .sec => v ≤ 59
  | .hund => v ≤ 99

/-- The decimal number a passing operand stores: for the year its offset from 2000 (R42), by 16-bit subtraction, which is
the natural difference for every year in range. -/
def stored (d : DateTime) : RecField → Nat
  | .year => (d.year - 2000).toNat
  | .month => d.month.toNat
  | .date => d.day.toNat
  | .wday => d.dow.toNat
  | .hour => d.hour.toNat
  | .minute => d.minute.toNat
  | .sec => d.second.toNat
  | .hund => d.hundredth.toNat

/-- The BCD byte of a number up to 99, by its digits: sixteen times the tens digit plus the ones digit (R40, R60). -/
def bcdByte (n : Nat) : Byte := BitVec.ofNat 8 (16 * (n / 10) + n % 10)

/-- The record bytes SETALM sends, in the order sent, for each `ALARM_PAYLOAD` (R92). -/
def payload (p : AlarmPayload) : List RecField :=
  [.hund, .sec, .minute, .hour, .date, .month] ++
    (if p = .first7 then [.year] else if p = .skipYear then [.wday] else [.year, .wday])

/-- Every record byte holds a determined value (R120). -/
def Determined (r : Record) : Prop := ∀ f, (r.get f).written = true

/-- A byte whose two hexadecimal digits are decimal digits (R40). -/
def BcdByte (b : Byte) : Prop := b.toNat / 16 ≤ 9 ∧ b.toNat % 16 ≤ 9

/-- Eight bytes a read of 0x00..0x07 may deliver in `s`: element k is register k where that holds a determined value
(R23). -/
def Deliverable (s : State) (bs : List Byte) : Prop :=
  bs.length = 8 ∧ ∀ k b, k < 8 → s.dev.read k = some b → bs[k]? = some b

/-- The record holds these eight bytes, every one determined, byte i in REC[i] (R28). -/
def Holds (r : Record) (bs : List Byte) : Prop := ∀ f, ∃ b, bs[f.index]? = some b ∧ r.get f = .determined b

/-- `t` is `s` but for what a transaction and a response may change: everything else is as it was. -/
def SameElsewhere (s t : State) : Prop :=
  t.inbox = s.inbox ∧ t.deviceChanges = s.deviceChanges ∧ t.params = s.params

/-- A register reads the same in both states. -/
def SameRegister (s t : State) (a : Nat) : Prop := t.dev.read a = s.dev.read a

/-- What the host must have done before a command for the spec to determine its result (R124). -/
def hostMeets : Instr → State → Prop
  | .tobcd d, _ => d.toNat ≤ 99
  | .frombcd b, _ => isBcd b = true
  | .setdt _, _ => True
  | .setcmp field value, _ => field.toNat ≤ 7 ∧ value.toNat ≤ 99
  | .sync, s => Determined s.record
  | .getdt, _ => True
  | .setalm _, _ => True

/-- Two record bytes that differ at most in a value no rule has determined. -/
def AgreeByte (a b : RecByte) : Prop := a.written = b.written ∧ (a.written = true → a.val = b.val)

/-- Two states that differ at most in values of record bytes that hold no determined value (R120). -/
def Agree (s t : State) : Prop :=
  (∀ f, AgreeByte (s.record.get f) (t.record.get f)) ∧ s = { t with record := s.record }

/-- The shapes of transaction the block issues (R23, R24, R31, R92). -/
def LegalTransaction (p : AlarmPayload) : Transaction → Prop
  | .read addr n result => addr = 0x00 ∧ n = 8 ∧ ∀ bs, result = some bs → bs.length = 8
  | .write addr bs _ =>
    (addr = 0x00 ∧ bs.length = 8) ∨ (addr = 0x08 ∧ bs.length = if p = .all8 then 8 else 7)

/-- The shapes of response the block gives (R52). -/
def LegalResponse (r : Response) : Prop :=
  match r.status with
  | .ok => r.data.length = 0 ∨ r.data.length = 1 ∨ r.data.length = 19
  | .fail => r.data.length = 0 ∨ r.data.length = 19
  | .illegal => r.data = []

/-- The invariant of the machine: the device's registers are in canonical form inside the register space, and every
transaction issued and every response given has a shape the spec gives. -/
structure Inv (s : State) : Prop where
  dev : s.dev.wf = true
  trace : ∀ t ∈ s.trace, LegalTransaction s.params.alarmPayload t
  outbox : ∀ r ∈ s.outbox, LegalResponse r

end Sys2Proof.Safety
end

