-- ==== Sys2Proof/Certificates/Slice0/Obligations.lean ====
section
/-! DEFINITION. The statements for the provers. R<n> are the numbered rules of spec/, D<n>, U<n> and G<n> its decisions
and open points, log entry <n> is notes/assumptions/<n>.md. -/

open Sys2Proof Sys2Proof.Machine Sys2Proof.Safety

/-! ## The BCD codec -/

/-- R60: TOBCD d, d up to 99, answers OK with the byte of the digits of d and changes nothing else. -/
def Obligations.TobcdPacksTensAndOnes : Prop :=
  ∀ (d : Byte) (s : State), d.toNat ≤ 99 →
    ∃ b : Byte, exec (.tobcd d) s = .next { s with outbox := { status := .ok, data := [b] } :: s.outbox } ∧
      (b.extractLsb' 4 4).toNat = d.toNat / 10 ∧ (b.extractLsb' 0 4).toNat = d.toNat % 10 ∧
      b = BitVec.ofNat 8 (((d.toNat / 10) <<< 4) ||| (d.toNat % 10)) ∧
      b.toNat = 16 * (d.toNat / 10) + d.toNat % 10 ∧ BcdByte b

/-- R61: FROMBCD b, b a BCD byte, answers OK with ten times the high nibble plus the low nibble, a value up to 99, and
changes nothing else. -/
def Obligations.FrombcdUnpacksTensAndOnes : Prop :=
  ∀ (b : Byte) (s : State), BcdByte b →
    ∃ n : Byte, exec (.frombcd b) s = .next { s with outbox := { status := .ok, data := [n] } :: s.outbox } ∧
      n.toNat = 10 * (b.extractLsb' 4 4).toNat + (b.extractLsb' 0 4).toNat ∧ n.toNat ≤ 99

/-- R62: inside their domains the two commands give a response that depends on the operand alone, always OK with one
byte, and neither reads nor writes anything else. -/
def Obligations.CodecIsPure : Prop :=
  ∀ i : Instr, (∃ d : Byte, i = .tobcd d ∧ d.toNat ≤ 99) ∨ (∃ b : Byte, i = .frombcd b ∧ BcdByte b) →
    ∃ v : Byte, ∀ s : State, exec i s = .next { s with outbox := { status := .ok, data := [v] } :: s.outbox }

/-- R63: FROMBCD of what TOBCD answers is the number TOBCD was given, for 0..99, and every BCD byte is TOBCD's answer for one
of those numbers. -/
def Obligations.CodecRoundTrip : Prop :=
  ∀ s : State,
    (∀ x : Byte, x.toNat ≤ 99 → ∃ b : Byte, BcdByte b ∧
      exec (.tobcd x) s = .next { s with outbox := { status := .ok, data := [b] } :: s.outbox } ∧
      exec (.frombcd b) s = .next { s with outbox := { status := .ok, data := [x] } :: s.outbox }) ∧
    (∀ b : Byte, BcdByte b → ∃ x : Byte, x.toNat ≤ 99 ∧
      exec (.tobcd x) s = .next { s with outbox := { status := .ok, data := [b] } :: s.outbox })

/-- The other way round, which R63 marks as derived: TOBCD of what FROMBCD answers is the BCD byte FROMBCD was given. -/
def Obligations.BcdByteRoundTrip : Prop :=
  ∀ (s : State) (b : Byte), BcdByte b → ∃ x : Byte, x.toNat ≤ 99 ∧
    exec (.frombcd b) s = .next { s with outbox := { status := .ok, data := [x] } :: s.outbox } ∧
    exec (.tobcd x) s = .next { s with outbox := { status := .ok, data := [b] } :: s.outbox }

/-- U1, U2 and log entries 3, 4, 5 (the model's choice): outside their domains the two commands complete with OK and one
free byte, drawn fresh, and nothing else changes. -/
def Obligations.CodecOutOfDomainAnswersFreeByte : Prop :=
  ∀ (x : Byte) (s : State),
    (99 < x.toNat → exec (.tobcd x) s = .next { s with
      draws := s.draws + 1, outbox := { status := .ok, data := [Config.freeByte s.draws] } :: s.outbox }) ∧
    (¬ BcdByte x → exec (.frombcd x) s = .next { s with
      draws := s.draws + 1, outbox := { status := .ok, data := [Config.freeByte s.draws] } :: s.outbox })

/-! ## SETDT -/

/-- R70, R71: SETDT stores, in the fixed order, the BCD byte of each operand up to the first that fails its range; the
failing field and those after it keep their bytes; the status is OK exactly when none fails; nothing else changes. -/
def Obligations.SetdtStoresUpToFirstFailure : Prop :=
  ∀ (d : DateTime) (s : State), ∃ t, exec (.setdt d) s = .next t ∧
    (∀ f, Reached d f → t.record.get f = .determined (bcdByte (stored d f))) ∧
    (Valid d .year → 2000 + stored d .year = d.year.toNat) ∧
    (∀ f, ¬ Reached d f → t.record.get f = s.record.get f) ∧
    (AllValid d → t.outbox = { status := .ok, data := [] } :: s.outbox) ∧
    (¬ AllValid d → t.outbox = { status := .fail, data := [] } :: s.outbox) ∧
    t = { s with record := t.record, outbox := t.outbox }

/-- R72: SETDT validates each field alone: every combination of in-range operands is accepted, a day 31 in February among
them, and any one operand out of range makes it fail. -/
def Obligations.SetdtValidatesEachFieldAlone : Prop :=
  ∀ (d : DateTime) (s : State), ∃ t, exec (.setdt d) s = .next t ∧
    (AllValid d → t.outbox = { status := .ok, data := [] } :: s.outbox) ∧
    (∀ f, ¬ Valid d f → t.outbox = { status := .fail, data := [] } :: s.outbox) ∧
    (AllValid { d with month := 2, day := 31 } →
      exec (.setdt { d with month := 2, day := 31 }) s = .next
        { s with record := Record.build fun f => .determined (bcdByte (stored { d with month := 2, day := 31 } f)),
                 outbox := { status := .ok, data := [] } :: s.outbox })

/-- What R72 marks as derived: SETDT and SETALM never leave the codec's domain: every value that reaches it is at most 99,
and SETDT draws no free value. -/
def Obligations.EncodeStaysInCodecDomain : Prop :=
  ∀ (d : DateTime) (s : State), ∃ t, exec (.setdt d) s = .next t ∧ t.draws = s.draws ∧
    ∀ f, Reached d f → stored d f ≤ 99 ∧ ∃ b, t.record.get f = .determined b ∧ BcdByte b

/-- R126: after a SETDT, or a SETALM's validation, that fails on a determined record, the record holds new bytes in the
fields validated before the failing one and old bytes in the rest, and a SYNC whose write succeeds writes that mixture. -/
def Obligations.FailedSetdtThenSyncWritesMixture : Prop :=
  ∀ (i : Instr) (d : DateTime) (s : State) (rest : List Bool), i = .setdt d ∨ i = .setalm d → Determined s.record →
    ¬ AllValid d → s.answers = true :: rest →
    ∃ t u, exec i s = .next t ∧ t.outbox = { status := .fail, data := [] } :: s.outbox ∧ exec .sync t = .next u ∧
      (∀ f, Reached d f → t.record.get f = .determined (bcdByte (stored d f)) ∧
        u.dev.read f.index = some (bcdByte (stored d f))) ∧
      (∀ f, ¬ Reached d f → t.record.get f = s.record.get f ∧ u.dev.read f.index = some (s.record.get f).val)

/-! ## SETCMP -/

/-- R73: SETCMP reads the device once and writes no register. When the read fails the record holds no determined value and
the answer is FAIL. When it succeeds the eight bytes replace the record; then, unless `SETCMP_VALIDATES` turns the value
away with FAIL, the one field gets the value's BCD byte, or no determined value above 99, and the answer is OK. -/
def Obligations.SetcmpStoresSnapshotWithOneField : Prop :=
  ∀ (f : RecField) (value : Byte) (s : State),
    ∃ t r, exec (.setcmp (BitVec.ofNat 8 f.index) value) s = .next t ∧ t.trace = .read 0x00 8 r :: s.trace ∧
      t.dev = s.dev ∧ t.answers = s.answers.tail ∧ SameElsewhere s t ∧
      (s.transportAnswer = false → r = none ∧ (∀ g, (t.record.get g).written = false) ∧
        t.outbox = { status := .fail, data := [] } :: s.outbox) ∧
      (s.transportAnswer = true → ∃ bs, r = some bs ∧ Deliverable s bs ∧
        (∀ g, g ≠ f → ∃ b, bs[g.index]? = some b ∧ t.record.get g = .determined b) ∧
        (s.params.setcmpValidates = true ∧ ¬ ValidComponent value.toNat f →
          Holds t.record bs ∧ t.outbox = { status := .fail, data := [] } :: s.outbox) ∧
        (s.params.setcmpValidates = false ∨ ValidComponent value.toNat f →
          t.outbox = { status := .ok, data := [] } :: s.outbox ∧
          (value.toNat ≤ 99 → t.record.get f = .determined (bcdByte value.toNat)) ∧
          (99 < value.toNat → (t.record.get f).written = false)))

/-- R74: after a successful read, with `SETCMP_VALIDATES` false every value up to 99 is stored, in range or not, and a
value above 99 leaves the field without a determined value; with it true a value outside the field's range answers FAIL
and leaves the plain snapshot, and one inside is stored. -/
def Obligations.SetcmpValidationParameter : Prop :=
  ∀ (f : RecField) (value : Byte) (s : State), s.transportAnswer = true →
    ∃ t bs, exec (.setcmp (BitVec.ofNat 8 f.index) value) s = .next t ∧ Deliverable s bs ∧
      t.trace = .read 0x00 8 (some bs) :: s.trace ∧ t.dev = s.dev ∧
      (∀ g, g ≠ f → ∃ b, bs[g.index]? = some b ∧ t.record.get g = .determined b) ∧
      (s.params.setcmpValidates = false → t.outbox = { status := .ok, data := [] } :: s.outbox ∧
        (value.toNat ≤ 99 → t.record.get f = .determined (bcdByte value.toNat)) ∧
        (99 < value.toNat → (t.record.get f).written = false)) ∧
      (s.params.setcmpValidates = true → ValidComponent value.toNat f →
        t.outbox = { status := .ok, data := [] } :: s.outbox ∧
        t.record.get f = .determined (bcdByte value.toNat)) ∧
      (s.params.setcmpValidates = true → ¬ ValidComponent value.toNat f →
        t.outbox = { status := .fail, data := [] } :: s.outbox ∧ Holds t.record bs)

/-- R75: SETCMP answers OK when the read succeeded and, under `SETCMP_VALIDATES`, the value was in range; FAIL when the
read failed, and then no record byte holds a determined value and the device is as it was. -/
def Obligations.SetcmpResultAndFailedRead : Prop :=
  ∀ (f : RecField) (value : Byte) (s : State), ∃ t, exec (.setcmp (BitVec.ofNat 8 f.index) value) s = .next t ∧
    (s.transportAnswer = true → (s.params.setcmpValidates = true → ValidComponent value.toNat f) →
      t.outbox = { status := .ok, data := [] } :: s.outbox) ∧
    (s.transportAnswer = false → t.outbox = { status := .fail, data := [] } :: s.outbox ∧
      (∀ g, (t.record.get g).written = false) ∧ t.dev = s.dev ∧ t.trace = .read 0x00 8 none :: s.trace ∧
      t.answers = s.answers.tail ∧ SameElsewhere s t)

/-- R54, R103: a SETCMP whose field is above 7 answers ILLEGAL before any transaction and does nothing else. -/
def Obligations.SetcmpIllegalFieldDoesNothing : Prop :=
  ∀ (field value : Byte) (s : State), 7 < field.toNat →
    exec (.setcmp field value) s = .next { s with outbox := { status := .illegal, data := [] } :: s.outbox }

/-- R127 for SETCMP, R78 and R79 for GETDT: the result does not depend on what the record held before; with a successful read
every byte but SETCMP's one is the device's. After a failed read, and where a byte is not BCD, that the two next states are
equal rests on the model's free values (log entry 5): both runs draw the same numbers. -/
def Obligations.SetcmpAndGetdtDiscardTheRecord : Prop :=
  ∀ (f : RecField) (value : Byte) (s : State) (r : Record), ∃ t u,
    exec (.setcmp (BitVec.ofNat 8 f.index) value) s = .next t ∧
    exec (.setcmp (BitVec.ofNat 8 f.index) value) { s with record := r } = .next t ∧
    (s.transportAnswer = true → ∀ g b, g ≠ f → s.dev.read g.index = some b → t.record.get g = .determined b) ∧
    exec .getdt s = .next u ∧ exec .getdt { s with record := r } = .next u ∧
    (s.transportAnswer = true → ∀ g b, s.dev.read g.index = some b → u.record.get g = .determined b)

/-- R129: between SETCMP's snapshot and SYNC's write the device may have moved on to any contents m; SYNC then sets the
seven other fields back to their values at snapshot time. -/
def Obligations.SetcmpThenSyncSetsClockBack : Prop :=
  ∀ (f : RecField) (value : Byte) (b : RecField → Byte) (s : State) (m : Memory) (rest : List Bool),
    value.toNat ≤ 99 → s.params.setcmpValidates = false → s.answers = true :: true :: rest →
    (∀ g, s.dev.read g.index = some (b g)) →
    ∃ t u, exec (.setcmp (BitVec.ofNat 8 f.index) value) s = .next t ∧ exec .sync { t with dev := m } = .next u ∧
      u.dev.read f.index = some (bcdByte value.toNat) ∧ ∀ g, g ≠ f → u.dev.read g.index = some (b g)

/-! ## SYNC -/

/-- R76: SYNC issues one write of the record's eight bytes to 0x00, unvalidated; OK with the registers written if the
transport said success, FAIL if not; the record is not changed, nor any register from 0x08 on. -/
def Obligations.SyncWritesTheRecord : Prop :=
  ∀ s : State, Determined s.record → ∃ t, exec .sync s = .next t ∧
    t.record = s.record ∧
    t.trace = .write 0x00 (RecField.all.map fun f => (s.record.get f).val) s.transportAnswer :: s.trace ∧
    (s.transportAnswer = true → t.outbox = { status := .ok, data := [] } :: s.outbox ∧
      ∀ f, t.dev.read f.index = some (s.record.get f).val) ∧
    (s.transportAnswer = false → t.outbox = { status := .fail, data := [] } :: s.outbox ∧
      ∀ a, a < 8 → t.dev.read a = none) ∧
    (∀ a, 8 ≤ a → SameRegister s t a) ∧ t.answers = s.answers.tail ∧ SameElsewhere s t

/-- U4 and log entry 3 (the model's choice where the spec proposes a refusal): SYNC completes whatever the record's marks
say; a determined byte is sent as it is, any other as a free byte drawn for this read. -/
def Obligations.SyncSendsFreeBytesForUndetermined : Prop :=
  ∀ s : State, ∃ t bs, exec .sync s = .next t ∧ bs.length = 8 ∧ t.record = s.record ∧
    t.trace = .write 0x00 bs s.transportAnswer :: s.trace ∧
    t.outbox = { status := if s.transportAnswer then .ok else .fail, data := [] } :: s.outbox ∧
    (∀ f, (s.record.get f).written = true → bs[f.index]? = some (s.record.get f).val) ∧
    (∀ f, (s.record.get f).written = false →
      ∃ k, s.draws ≤ k ∧ k < t.draws ∧ bs[f.index]? = some (Config.freeByte k)) ∧
    (∀ a, 8 ≤ a → SameRegister s t a) ∧ SameElsewhere s t

/-- R134: a failed SYNC leaves the record as it was and the time registers unknown; the host may repeat the command, and
the repeated write, if it succeeds, sets them to the record. Nothing is retried by the block: two commands, two writes. -/
def Obligations.FailedSyncCanBeRepeated : Prop :=
  ∀ (s : State) (rest : List Bool), Determined s.record → s.answers = false :: true :: rest →
    ∃ t u bs, exec .sync s = .next t ∧ exec .sync t = .next u ∧ t.record = s.record ∧
      (∀ a, a < 8 → t.dev.read a = none) ∧ (∀ f, u.dev.read f.index = some (s.record.get f).val) ∧
      u.trace = .write 0x00 bs true :: .write 0x00 bs false :: s.trace

/-! ## GETDT -/

/-- R78, R45: GETDT reads the device once and writes no register. After a successful read the eight bytes are the record;
if all are BCD the answer is OK with the 19 characters 20YY-MM-DDTHH:MM:SS, each digit the character of a nibble, no range
checked; else OK with 19 unspecified bytes. After a failed read the record holds no determined value and the answer is FAIL
with 19 unspecified bytes. The character codes are R47's (log entry 11). -/
def Obligations.GetdtRendersTheRegisters : Prop :=
  ∀ s : State, ∃ t r, exec .getdt s = .next t ∧ t.trace = .read 0x00 8 r :: s.trace ∧ t.dev = s.dev ∧
    t.answers = s.answers.tail ∧ SameElsewhere s t ∧
    (s.transportAnswer = false → r = none ∧ (∀ f, (t.record.get f).written = false) ∧
      ∃ text, text.length = 19 ∧ t.outbox = { status := .fail, data := text } :: s.outbox) ∧
    (s.transportAnswer = true → ∃ hu se mi ho da mo ye wd, r = some [hu, se, mi, ho, da, mo, ye, wd] ∧
      Deliverable s [hu, se, mi, ho, da, mo, ye, wd] ∧ Holds t.record [hu, se, mi, ho, da, mo, ye, wd] ∧
      ∃ text, text.length = 19 ∧ t.outbox = { status := .ok, data := text } :: s.outbox ∧
        ((∀ b ∈ [hu, se, mi, ho, da, mo, ye, wd], BcdByte b) → text =
          let tens (b : Byte) : Byte := BitVec.ofNat 8 (0x30 + b.toNat / 16)
          let ones (b : Byte) : Byte := BitVec.ofNat 8 (0x30 + b.toNat % 16)
          [0x32, 0x30, tens ye, ones ye, 0x2D, tens mo, ones mo, 0x2D, tens da, ones da, 0x54, tens ho, ones ho, 0x3A,
            tens mi, ones mi, 0x3A, tens se, ones se]))

/-- R79 and log entry 5 (how the model says "unspecified"): after a failed read, and after a read of a byte that is not BCD,
the 19 text bytes are 19 free values, drawn for this answer. -/
def Obligations.GetdtUnspecifiedText : Prop :=
  ∀ (s : State) (t : State), exec .getdt s = .next t →
    (s.transportAnswer = false ∨ ∃ bs, t.trace = .read 0x00 8 (some bs) :: s.trace ∧ ∃ b ∈ bs, ¬ BcdByte b) →
    ∃ k st, s.draws ≤ k ∧ k + 19 ≤ t.draws ∧
      t.outbox = { status := st, data := (List.range 19).map fun n => Config.freeByte (k + n) } :: s.outbox

/-! ## SETALM -/

/-- R90: SETALM leaves in the record what SETDT leaves; out-of-range operands make it FAIL with no transaction; else it
issues one write of the payload at 0x08 and answers with the transport's result; it never writes a time register. -/
def Obligations.SetalmValidatesThenWritesOnce : Prop :=
  ∀ (d : DateTime) (s : State), ∃ t u, exec (.setalm d) s = .next t ∧ exec (.setdt d) s = .next u ∧
    t.record = u.record ∧
    (¬ AllValid d → t = u ∧ t.outbox = { status := .fail, data := [] } :: s.outbox ∧ t.trace = s.trace) ∧
    (AllValid d →
      t.trace = .write 0x08 ((payload s.params.alarmPayload).map fun f => (t.record.get f).val) s.transportAnswer
        :: s.trace ∧
      t.outbox = { status := if s.transportAnswer then .ok else .fail, data := [] } :: s.outbox ∧
      t.answers = s.answers.tail) ∧
    (∀ a, a < 8 → SameRegister s t a) ∧ SameElsewhere s t

/-- R92: the bytes SETALM sends and the registers they land in, for each of the three payloads. -/
def Obligations.SetalmPayloadByParameter : Prop :=
  ∀ (d : DateTime) (s : State), AllValid d → ∃ t bs, exec (.setalm d) s = .next t ∧
    t.trace = .write 0x08 bs s.transportAnswer :: s.trace ∧
    bs = (payload s.params.alarmPayload).map (fun f => bcdByte (stored d f)) ∧
    (∀ f, t.record.get f = .determined (bcdByte (stored d f))) ∧
    (s.transportAnswer = true → ∀ k, k < bs.length → t.dev.read (0x08 + k) = bs[k]?) ∧
    (s.transportAnswer = false → ∀ k, k < bs.length → t.dev.read (0x08 + k) = none) ∧
    (∀ a, a < 0x08 ∨ 0x08 + bs.length ≤ a → SameRegister s t a)

/-- R93: validation comes before the transaction and decides whether there is one: a SETALM whose operands do not validate
uses up no transport answer and touches no register, any other issues a write; the FAIL of either kind is the same. -/
def Obligations.SetalmChecksBeforeTransaction : Prop :=
  ∀ (d : DateTime) (s : State), ∃ t, exec (.setalm d) s = .next t ∧
    (¬ AllValid d → t.outbox = { status := .fail, data := [] } :: s.outbox ∧
      t = { s with record := t.record, outbox := t.outbox }) ∧
    (AllValid d → ∃ bs ok, t.trace = .write 0x08 bs ok :: s.trace ∧
      (ok = false → t.outbox = { status := .fail, data := [] } :: s.outbox))

/-- R53: the FAIL of a SETALM that did not validate and the FAIL of one whose write failed are the same response. -/
def Obligations.FailCarriesNoCause : Prop :=
  ∀ (d e : DateTime) (s : State), ¬ AllValid d → AllValid e → s.transportAnswer = false →
    ∃ t u, exec (.setalm d) s = .next t ∧ exec (.setalm e) s = .next u ∧ t.outbox = u.outbox ∧
      t.outbox = { status := .fail, data := [] } :: s.outbox

/-- R130: SETDT, SETALM, SYNC sets the clock to the alarm's date and time. -/
def Obligations.SetalmThenSyncSetsClockToAlarm : Prop :=
  ∀ (c d : DateTime) (s : State) (rest : List Bool), AllValid d → s.answers = true :: true :: rest →
    ∃ r t u, exec (.setdt c) s = .next r ∧ exec (.setalm d) r = .next t ∧ exec .sync t = .next u ∧
      ∀ f, u.dev.read f.index = some (bcdByte (stored d f))

/-! ## The device and the transport -/

/-- R23, R24, R28: a successful write puts element k in register addr + k and leaves every other register; a successful
read delivers n bytes, element k the content of register addr + k where that is determined. -/
def Obligations.TransactionsMoveElementToRegister : Prop :=
  ∀ (s : State) (addr : Nat), s.transportAnswer = true →
    (∀ bs : List Byte, (s.memWrite addr bs).1 = true ∧
      (∀ k, k < bs.length → (s.memWrite addr bs).2.dev.read (addr + k) = bs[k]?) ∧
      (∀ a, a < addr ∨ addr + bs.length ≤ a → (s.memWrite addr bs).2.dev.read a = s.dev.read a)) ∧
    (∀ n : Nat, ∃ bs, (s.memRead addr n).1 = some bs ∧ bs.length = n ∧
      ∀ k b, k < n → s.dev.read (addr + k) = some b → bs[k]? = some b)

/-- R27: after a failed write each register of the run holds no determined value and no other register changed; a failed
read delivers nothing and leaves the device as it was. -/
def Obligations.FailedTransactionEffects : Prop :=
  ∀ (s : State) (addr : Nat), s.transportAnswer = false →
    (∀ bs : List Byte, (s.memWrite addr bs).1 = false ∧
      (∀ a, addr ≤ a → a < addr + bs.length → (s.memWrite addr bs).2.dev.read a = none) ∧
      (∀ a, a < addr ∨ addr + bs.length ≤ a → (s.memWrite addr bs).2.dev.read a = s.dev.read a)) ∧
    (∀ n : Nat, (s.memRead addr n).1 = none ∧ (s.memRead addr n).2.dev = s.dev)

/-- R101: a transport failure is reported as FAIL by each of the four commands with a transaction; after a failed read the
record holds no determined value and the device is as it was, after a failed write the addressed registers hold none and
the record is what it was when the write was issued. That a SYNC of a record with an undetermined byte is among them is the
model's choice, log entry 3 (the spec has a model refuse it, R77, U4). -/
def Obligations.TransportFailureReportsFail : Prop :=
  ∀ s : State, s.transportAnswer = false →
    (∀ (f : RecField) (value : Byte), ∃ t, exec (.setcmp (BitVec.ofNat 8 f.index) value) s = .next t ∧
      t.outbox = { status := .fail, data := [] } :: s.outbox ∧ (∀ g, (t.record.get g).written = false) ∧ t.dev = s.dev) ∧
    (∃ t text, exec .getdt s = .next t ∧ t.outbox = { status := .fail, data := text } :: s.outbox ∧
      (∀ g, (t.record.get g).written = false) ∧ t.dev = s.dev) ∧
    (∃ t, exec .sync s = .next t ∧ t.outbox = { status := .fail, data := [] } :: s.outbox ∧ t.record = s.record ∧
      ∀ a, a < 8 → t.dev.read a = none) ∧
    (∀ d, AllValid d → ∃ t u, exec (.setalm d) s = .next t ∧ exec (.setdt d) s = .next u ∧
      t.outbox = { status := .fail, data := [] } :: s.outbox ∧ t.record = u.record ∧
      ∀ k, k < (payload s.params.alarmPayload).length → t.dev.read (0x08 + k) = none)

/-- R31: the transactions of each command: none for TOBCD, FROMBCD, SETDT and an illegal or unvalidated frame, exactly one
read of eight bytes for SETCMP and GETDT, exactly one write for SYNC and a validated SETALM. That TOBCD, FROMBCD and SYNC
complete where the spec has a model refuse (U1, U2, U4; table 2.8: "SYNC (not refused)") is the model's choice, log
entry 3. -/
def Obligations.TransactionsOfEachCommand : Prop :=
  ∀ (i : Instr) (s : State), ∃ t, exec i s = .next t ∧
    match i with
    | .tobcd _ | .frombcd _ | .setdt _ => t.trace = s.trace ∧ t.dev = s.dev
    | .setcmp field _ =>
      (field.toNat ≤ 7 → t.dev = s.dev ∧ ∃ r, t.trace = .read 0x00 8 r :: s.trace) ∧
      (7 < field.toNat → t.dev = s.dev ∧ t.trace = s.trace)
    | .getdt => t.dev = s.dev ∧ ∃ r, t.trace = .read 0x00 8 r :: s.trace
    | .sync => ∃ bs ok, bs.length = 8 ∧ t.trace = .write 0x00 bs ok :: s.trace
    | .setalm d =>
      (AllValid d → ∃ bs ok, bs.length = (if s.params.alarmPayload = .all8 then 8 else 7) ∧
        t.trace = .write 0x08 bs ok :: s.trace) ∧
      (¬ AllValid d → t.dev = s.dev ∧ t.trace = s.trace)

/-- R128: only SYNC writes the time registers; SETCMP and SETDT change nothing on the device. That every command completes,
where the spec has a model refuse too (U1, U2, U4), is the model's choice, log entry 3. -/
def Obligations.OnlySyncWritesTimeRegisters : Prop :=
  ∀ (i : Instr) (s : State), ∃ t, exec i s = .next t ∧
    (i ≠ .sync → ∀ a, a < 8 → SameRegister s t a) ∧
    ((∃ d, i = .setdt d) ∨ (∃ field value, i = .setcmp field value) → ∀ a, SameRegister s t a)

/-- R32, R17: no command writes a register above 0x0E, but SETALM under `all8` the status register 0x0F. That every command
completes, where the spec has a model refuse too (U1, U2, U4), is the model's choice, log entry 3. -/
def Obligations.WritesStayInTimeAndAlarmRegisters : Prop :=
  ∀ (i : Instr) (s : State), ∃ t, exec i s = .next t ∧
    ∀ a, 0x0E < a → (a = 0x0F → s.params.alarmPayload ≠ .all8 ∨ ∀ d, i ≠ .setalm d) → SameRegister s t a

/-- R29 and log entry 7: between commands the device may change a register to anything: for every content v of the time
registers there are changes of its own after which they hold v, whatever they held; and with nothing stated about it, no
register holds a determined value. -/
def Obligations.DeviceMayChangeByItself : Prop :=
  ∀ (s : State) (v : RecField → Byte) (rest : List (List Host.Cell)),
    (∃ c, ∀ f, ({ s with deviceChanges := c :: rest } : State).deviceMoves.dev.read f.index = some (v f)) ∧
    (∀ a, ({ s with deviceChanges := [] } : State).deviceMoves.dev.read a = none)

/-! ## The whole machine -/

/-- R104, R3: no command traps: each completes, gives exactly one response, and takes nothing from the command port. That
this holds of TOBCD above 99, FROMBCD of a non-BCD byte and SYNC of an undetermined record, where the spec has a model
refuse (U1, U2, U4) and R52 calls the codec's response unspecified, is the model's choice, log entry 3. -/
def Obligations.EveryCommandAnswersOnce : Prop :=
  ∀ (i : Instr) (s : State), ∃ t r, exec i s = .next t ∧ t.outbox = r :: s.outbox ∧ SameElsewhere s t

/-- R104: no step faults or is refused. That a step with TOBCD above 99, FROMBCD of a non-BCD byte or SYNC of an undetermined
record ends in a next state, where the spec has a model refuse (U1, U2, U4), is the model's choice, log entry 3; that an
incomplete frame is waited for is the model's choice, log entry 1. -/
def Obligations.EveryStepCompletes : Prop := ∀ s : State, Completes (step s)

/-- R105, R16: a command does the same from any state with the same record, device and inputs: what was answered or issued
before, a failure among it, makes no difference. That it completes where the spec has a model refuse (U1, U2, U4), and that
the free values of the two runs are the same, is the model's choice, log entries 3 and 5. -/
def Obligations.CommandsRememberNoFailure : Prop :=
  ∀ (i : Instr) (s : State) (o : List Response) (tr : List Transaction), ∃ t rs ts,
    exec i s = .next t ∧ t.outbox = rs ++ s.outbox ∧ t.trace = ts ++ s.trace ∧
    exec i { s with outbox := o, trace := tr } = .next { t with outbox := rs ++ o, trace := ts ++ tr }

/-- R120 and log entries 2, 3, 5: the stored value of a record byte that holds no determined value is never observed: two
states that differ at most there give results that differ at most there. -/
def Obligations.UndeterminedValuesAreNeverObserved : Prop :=
  ∀ (i : Instr) (s s' : State), Agree s s' → ∃ t t', exec i s = .next t ∧ exec i s' = .next t' ∧ Agree t t'

/-- R120 to R122: after reset every record byte is unwritten, nothing is known of any device register, nothing has been
answered or issued, and a step waits for the host's first command (the form of waiting is log entry 1). -/
def Obligations.ResetLeavesRecordUnwritten : Prop :=
  (∀ f, (State.reset.record.get f).written = false) ∧ (∀ a, State.reset.dev.read a = none) ∧
    State.reset.outbox = [] ∧ State.reset.trace = [] ∧ step State.reset = .next State.reset

/-- The invariant holds at reset. -/
def Obligations.ResetMeetsInvariant : Prop := Inv State.reset

/-- The invariant is kept by every step: the device's registers stay in canonical form within the register space (R20),
every transaction has one of the block's shapes (R23, R24, R31) and every response one of R52's. -/
def Obligations.EveryStepKeepsInvariant : Prop := ∀ s t : State, Inv s → step s = .next t → Inv t

/-! ## Frames -/

/-- A step runs the decoded instruction: the device moves, the frame's bytes are taken, and exec runs. -/
def Obligations.StepRunsDecodedInstruction : Prop :=
  ∀ (i : Instr) (s : State) (rest : List Byte), decode s.inbox = .command i rest →
    step s = exec i { s.deviceMoves with inbox := rest }

/-- R54: an opcode byte outside the seven is consumed alone, a SETCMP frame with field 8 to 255 is consumed whole, each is
answered ILLEGAL, and the block changes nothing else and issues no transaction; every other complete frame, whatever its
operand values, is consumed and runs as its command. -/
def Obligations.IllegalFramesAnswerIllegal : Prop :=
  ∀ (s : State) (rest : List Byte),
    (∀ op : Byte, s.inbox = op :: rest → op ∉ [0x01, 0x02, 0x10, 0x11, 0x12, 0x13, 0x20] →
      step s = .next { s.deviceMoves with
        inbox := rest, outbox := { status := .illegal, data := [] } :: s.outbox }) ∧
    (∀ field value : Byte, s.inbox = 0x11 :: field :: value :: rest → 7 < field.toNat →
      step s = .next { s.deviceMoves with
        inbox := rest, outbox := { status := .illegal, data := [] } :: s.outbox }) ∧
    (∀ i : Instr, (∀ field value, i = .setcmp field value → field.toNat ≤ 7) → s.inbox = encode i ++ rest →
      step s = exec i { s.deviceMoves with inbox := rest })

/-- Log entry 1 (the model's choice): while the command port holds no whole frame, a step lets the device move and changes
nothing of the block. -/
def Obligations.IncompleteFrameIsWaitedFor : Prop :=
  ∀ (s : State) (op : Byte) (n : Nat), (s.inbox = [] → step s = .next s.deviceMoves) ∧
    (s.inbox.head? = some op → frameLength op = some n → s.inbox.length < n → step s = .next s.deviceMoves)

/-- R49: exactly seven opcodes are legal, with the table's lengths, and each command's frame is the table's: its opcode byte
and its operand bytes in the table's order, the year's high byte first (R50). -/
def Obligations.OpcodesAndLengthsOfTheTable : Prop :=
  (∀ d : Byte, encode (.tobcd d) = [0x01, d]) ∧ (∀ b : Byte, encode (.frombcd b) = [0x02, b]) ∧
  (∀ d : DateTime, encode (.setdt d) = [0x10, d.year.extractLsb' 8 8, d.year.extractLsb' 0 8, d.month, d.day, d.dow,
    d.hour, d.minute, d.second, d.hundredth]) ∧
  (∀ field value : Byte, encode (.setcmp field value) = [0x11, field, value]) ∧
  encode .sync = [0x12] ∧ encode .getdt = [0x13] ∧
  (∀ d : DateTime, encode (.setalm d) = [0x20, d.year.extractLsb' 8 8, d.year.extractLsb' 0 8, d.month, d.day, d.dow,
    d.hour, d.minute, d.second, d.hundredth]) ∧
  (∀ op : Byte, frameLength op =
    if op = 0x01 ∨ op = 0x02 then some 2 else if op = 0x10 ∨ op = 0x20 then some 10
    else if op = 0x11 then some 3 else if op = 0x12 ∨ op = 0x13 then some 1 else none) ∧
  (∀ (op : Byte) (bs : List Byte), decode (op :: bs) = .illegalOpcode op bs ↔ frameLength op = none)

/-- Decoding the frame of any well-formed instruction gives it back, with the bytes after the frame left over. -/
def Obligations.DecodeOfEncode : Prop :=
  ∀ (i : Instr) (rest : List Byte), i.wellFormed = true → decode (encode i ++ rest) = .command i rest

/-- Whatever decodes to an instruction is that instruction's frame, and the instruction is well-formed. -/
def Obligations.EncodeOfDecode : Prop :=
  ∀ (i : Instr) (bs rest : List Byte), decode bs = .command i rest → i.wellFormed = true ∧ bs = encode i ++ rest

/-- The worked examples' frames of spec/40, 41 and 42 decode to their commands. -/
def Obligations.WorkedExampleFramesDecode : Prop :=
  decode [0x01, 0x3B] = .command (.tobcd 59) [] ∧
  decode [0x02, 0x59] = .command (.frombcd 0x59) [] ∧
  decode [0x10, 0x07, 0xE5, 0x05, 0x04, 0x02, 0x08, 0x09, 0x0A, 0x00] =
    .command (.setdt (DateTime.mk 2021 5 4 2 8 9 10 0)) [] ∧
  decode [0x11, 0x02, 0x2D] = .command (.setcmp 2 45) [] ∧
  decode [0x12] = .command .sync [] ∧
  decode [0x13] = .command .getdt [] ∧
  decode [0x20, 0x07, 0xE5, 0x05, 0x04, 0x02, 0x08, 0x09, 0x0A, 0x00] =
    .command (.setalm (DateTime.mk 2021 5 4 2 8 9 10 0)) []

/-! ## The block's arguments and results -/

/-- R19: a command's operands, the parameters and the transport's answer are arguments, the response and the transaction
are results, and the record is all the block keeps: the bytes still in the command port, the earlier responses and
transactions, the transport's later answers and the device's coming changes are not read. Two states with the same record,
device and parameters, the same next answer and the same number of free values drawn (log entry 5) give the same record,
device, response and, at most one, transaction. That the refused cases (U1, U2, U4) complete is log entry 3. -/
def Obligations.CommandReadsRecordAndArgumentsAlone : Prop :=
  ∀ (i : Instr) (s s' : State), s.record = s'.record → s.params = s'.params → s.dev = s'.dev → s.draws = s'.draws →
    s.answers.head? = s'.answers.head? →
    ∃ t t' r ts, exec i s = .next t ∧ exec i s' = .next t' ∧ t.record = t'.record ∧ t.dev = t'.dev ∧
      t.outbox = r :: s.outbox ∧ t'.outbox = r :: s'.outbox ∧
      t.trace = ts ++ s.trace ∧ t'.trace = ts ++ s'.trace ∧ ts.length ≤ 1

/-- R127: a SETDT that has not been SYNCed is lost by a following SETCMP, but for the one field SETCMP sets: every other
record byte is the one its read delivered, the device's own where that is determined. -/
def Obligations.SetcmpLosesUnsyncedSetdt : Prop :=
  ∀ (c : DateTime) (f : RecField) (value : Byte) (s : State), s.transportAnswer = true →
    ∃ r t bs, exec (.setdt c) s = .next r ∧ exec (.setcmp (BitVec.ofNat 8 f.index) value) r = .next t ∧
      t.trace = .read 0x00 8 (some bs) :: s.trace ∧ Deliverable s bs ∧
      ∀ g, g ≠ f → ∃ b, bs[g.index]? = some b ∧ t.record.get g = .determined b
end

