-- ==== Sys2Proof/Laws/State.lean ====
section
/-! SUPPORT. What each named update does to each field of State: every lemma holds by rfl. -/

namespace Sys2Proof.Machine

/-! setRecord -/

@[simp] theorem State.setRecord_record (s : State) (r : Record) : (s.setRecord r).record = r := rfl
@[simp] theorem State.setRecord_dev (s : State) (r : Record) : (s.setRecord r).dev = s.dev := rfl
@[simp] theorem State.setRecord_inbox (s : State) (r : Record) : (s.setRecord r).inbox = s.inbox := rfl
@[simp] theorem State.setRecord_outbox (s : State) (r : Record) : (s.setRecord r).outbox = s.outbox := rfl
@[simp] theorem State.setRecord_trace (s : State) (r : Record) : (s.setRecord r).trace = s.trace := rfl
@[simp] theorem State.setRecord_answers (s : State) (r : Record) : (s.setRecord r).answers = s.answers := rfl
@[simp] theorem State.setRecord_deviceChanges (s : State) (r : Record) :
    (s.setRecord r).deviceChanges = s.deviceChanges := rfl
@[simp] theorem State.setRecord_draws (s : State) (r : Record) : (s.setRecord r).draws = s.draws := rfl
@[simp] theorem State.setRecord_params (s : State) (r : Record) : (s.setRecord r).params = s.params := rfl

/-! setDev -/

@[simp] theorem State.setDev_record (s : State) (m : Memory) : (s.setDev m).record = s.record := rfl
@[simp] theorem State.setDev_dev (s : State) (m : Memory) : (s.setDev m).dev = m := rfl
@[simp] theorem State.setDev_inbox (s : State) (m : Memory) : (s.setDev m).inbox = s.inbox := rfl
@[simp] theorem State.setDev_outbox (s : State) (m : Memory) : (s.setDev m).outbox = s.outbox := rfl
@[simp] theorem State.setDev_trace (s : State) (m : Memory) : (s.setDev m).trace = s.trace := rfl
@[simp] theorem State.setDev_answers (s : State) (m : Memory) : (s.setDev m).answers = s.answers := rfl
@[simp] theorem State.setDev_deviceChanges (s : State) (m : Memory) :
    (s.setDev m).deviceChanges = s.deviceChanges := rfl
@[simp] theorem State.setDev_draws (s : State) (m : Memory) : (s.setDev m).draws = s.draws := rfl
@[simp] theorem State.setDev_params (s : State) (m : Memory) : (s.setDev m).params = s.params := rfl

/-! setInbox -/

@[simp] theorem State.setInbox_record (s : State) (rest : List Byte) : (s.setInbox rest).record = s.record := rfl
@[simp] theorem State.setInbox_dev (s : State) (rest : List Byte) : (s.setInbox rest).dev = s.dev := rfl
@[simp] theorem State.setInbox_inbox (s : State) (rest : List Byte) : (s.setInbox rest).inbox = rest := rfl
@[simp] theorem State.setInbox_outbox (s : State) (rest : List Byte) : (s.setInbox rest).outbox = s.outbox := rfl
@[simp] theorem State.setInbox_trace (s : State) (rest : List Byte) : (s.setInbox rest).trace = s.trace := rfl
@[simp] theorem State.setInbox_answers (s : State) (rest : List Byte) : (s.setInbox rest).answers = s.answers := rfl
@[simp] theorem State.setInbox_deviceChanges (s : State) (rest : List Byte) :
    (s.setInbox rest).deviceChanges = s.deviceChanges := rfl
@[simp] theorem State.setInbox_draws (s : State) (rest : List Byte) : (s.setInbox rest).draws = s.draws := rfl
@[simp] theorem State.setInbox_params (s : State) (rest : List Byte) : (s.setInbox rest).params = s.params := rfl

/-! spend -/

@[simp] theorem State.spend_record (s : State) (n : Nat) : (s.spend n).record = s.record := rfl
@[simp] theorem State.spend_dev (s : State) (n : Nat) : (s.spend n).dev = s.dev := rfl
@[simp] theorem State.spend_inbox (s : State) (n : Nat) : (s.spend n).inbox = s.inbox := rfl
@[simp] theorem State.spend_outbox (s : State) (n : Nat) : (s.spend n).outbox = s.outbox := rfl
@[simp] theorem State.spend_trace (s : State) (n : Nat) : (s.spend n).trace = s.trace := rfl
@[simp] theorem State.spend_answers (s : State) (n : Nat) : (s.spend n).answers = s.answers := rfl
@[simp] theorem State.spend_deviceChanges (s : State) (n : Nat) : (s.spend n).deviceChanges = s.deviceChanges := rfl
@[simp] theorem State.spend_draws (s : State) (n : Nat) : (s.spend n).draws = s.draws + n := rfl
@[simp] theorem State.spend_params (s : State) (n : Nat) : (s.spend n).params = s.params := rfl

/-! log -/

@[simp] theorem State.log_record (s : State) (t : Transaction) : (s.log t).record = s.record := rfl
@[simp] theorem State.log_dev (s : State) (t : Transaction) : (s.log t).dev = s.dev := rfl
@[simp] theorem State.log_inbox (s : State) (t : Transaction) : (s.log t).inbox = s.inbox := rfl
@[simp] theorem State.log_outbox (s : State) (t : Transaction) : (s.log t).outbox = s.outbox := rfl
@[simp] theorem State.log_trace (s : State) (t : Transaction) : (s.log t).trace = t :: s.trace := rfl
@[simp] theorem State.log_answers (s : State) (t : Transaction) : (s.log t).answers = s.answers := rfl
@[simp] theorem State.log_deviceChanges (s : State) (t : Transaction) :
    (s.log t).deviceChanges = s.deviceChanges := rfl
@[simp] theorem State.log_draws (s : State) (t : Transaction) : (s.log t).draws = s.draws := rfl
@[simp] theorem State.log_params (s : State) (t : Transaction) : (s.log t).params = s.params := rfl

/-! respond -/

@[simp] theorem State.respond_record (s : State) (r : Response) : (s.respond r).record = s.record := rfl
@[simp] theorem State.respond_dev (s : State) (r : Response) : (s.respond r).dev = s.dev := rfl
@[simp] theorem State.respond_inbox (s : State) (r : Response) : (s.respond r).inbox = s.inbox := rfl
@[simp] theorem State.respond_outbox (s : State) (r : Response) : (s.respond r).outbox = r :: s.outbox := rfl
@[simp] theorem State.respond_trace (s : State) (r : Response) : (s.respond r).trace = s.trace := rfl
@[simp] theorem State.respond_answers (s : State) (r : Response) : (s.respond r).answers = s.answers := rfl
@[simp] theorem State.respond_deviceChanges (s : State) (r : Response) :
    (s.respond r).deviceChanges = s.deviceChanges := rfl
@[simp] theorem State.respond_draws (s : State) (r : Response) : (s.respond r).draws = s.draws := rfl
@[simp] theorem State.respond_params (s : State) (r : Response) : (s.respond r).params = s.params := rfl

/-! respondIllegal -/

@[simp] theorem State.respondIllegal_record (s : State) : (s.respondIllegal).record = s.record := rfl
@[simp] theorem State.respondIllegal_dev (s : State) : (s.respondIllegal).dev = s.dev := rfl
@[simp] theorem State.respondIllegal_inbox (s : State) : (s.respondIllegal).inbox = s.inbox := rfl
@[simp] theorem State.respondIllegal_outbox (s : State) :
    (s.respondIllegal).outbox = { status := .illegal, data := [] } :: s.outbox := rfl
@[simp] theorem State.respondIllegal_trace (s : State) : (s.respondIllegal).trace = s.trace := rfl
@[simp] theorem State.respondIllegal_answers (s : State) : (s.respondIllegal).answers = s.answers := rfl
@[simp] theorem State.respondIllegal_deviceChanges (s : State) :
    (s.respondIllegal).deviceChanges = s.deviceChanges := rfl
@[simp] theorem State.respondIllegal_draws (s : State) : (s.respondIllegal).draws = s.draws := rfl
@[simp] theorem State.respondIllegal_params (s : State) : (s.respondIllegal).params = s.params := rfl

/-! finish -/

@[simp] theorem State.finish_record (s : State) (e : Ending) : (s.finish e).record = e.record := rfl
@[simp] theorem State.finish_dev (s : State) (e : Ending) : (s.finish e).dev = s.dev := rfl
@[simp] theorem State.finish_inbox (s : State) (e : Ending) : (s.finish e).inbox = s.inbox := rfl
@[simp] theorem State.finish_outbox (s : State) (e : Ending) : (s.finish e).outbox = e.response :: s.outbox := rfl
@[simp] theorem State.finish_trace (s : State) (e : Ending) : (s.finish e).trace = s.trace := rfl
@[simp] theorem State.finish_answers (s : State) (e : Ending) : (s.finish e).answers = s.answers := rfl
@[simp] theorem State.finish_deviceChanges (s : State) (e : Ending) :
    (s.finish e).deviceChanges = s.deviceChanges := rfl
@[simp] theorem State.finish_draws (s : State) (e : Ending) : (s.finish e).draws = s.draws + e.drawn := rfl
@[simp] theorem State.finish_params (s : State) (e : Ending) : (s.finish e).params = s.params := rfl

end Sys2Proof.Machine
end

