-- ==== Sys2Proof/Laws/Memory.lean ====
section
/-! SUPPORT. The device's registers: read after write and forget, runs, and the canonical form every operation
keeps. -/

namespace Sys2Proof.Machine

@[simp] theorem timeBase_eq : timeBase = 0 := rfl

@[simp] theorem alarmBase_eq : alarmBase = 8 := rfl

@[simp] theorem Memory.read_nil (a : Nat) : Memory.read [] a = none := rfl

@[simp] theorem Memory.read_write_same (m : Memory) (a : Nat) (v : Byte) : (m.write a v).read a = some v := by
  induction m with
  | nil => simp [Memory.write, Memory.read]
  | cons c rest ih =>
    obtain ⟨b, w⟩ := c
    by_cases h1 : a < b
    · simp [Memory.write, Memory.read, h1]
    · by_cases h2 : a = b
      · simp [Memory.write, Memory.read, h2]
      · simp [Memory.write, Memory.read, h1, h2, ih]

theorem Memory.read_write_other (m : Memory) {a b : Nat} (v : Byte) (h : b ≠ a) : (m.write a v).read b = m.read b := by
  induction m with
  | nil => simp [Memory.write, Memory.read, h]
  | cons c rest ih =>
    obtain ⟨x, w⟩ := c
    by_cases h1 : a < x
    · simp [Memory.write, Memory.read, h1, h]
    · by_cases h2 : a = x
      · subst h2
        simp [Memory.write, Memory.read, h]
      · simp [Memory.write, Memory.read, h1, h2, ih]

@[simp] theorem Memory.read_forget_same (m : Memory) (a : Nat) : (m.forget a).read a = none := by
  induction m with
  | nil => rfl
  | cons c rest ih =>
    obtain ⟨x, w⟩ := c
    by_cases h : x = a
    · simpa [Memory.forget, h] using ih
    · have h' : ¬ a = x := fun e => h e.symm
      simpa [Memory.forget, Memory.read, h, h'] using ih

theorem Memory.read_forget_other (m : Memory) {a b : Nat} (h : b ≠ a) : (m.forget a).read b = m.read b := by
  induction m with
  | nil => rfl
  | cons c rest ih =>
    obtain ⟨x, w⟩ := c
    by_cases hx : x = a
    · subst hx
      simpa [Memory.forget, Memory.read, h] using ih
    · by_cases hb : b = x
      · subst hb
        simp [Memory.forget, Memory.read, hx]
      · simpa [Memory.forget, Memory.read, hx, hb] using ih

theorem Memory.read_writeRun_outside (bs : List Byte) (m : Memory) {addr a : Nat}
    (h : a < addr ∨ addr + bs.length ≤ a) : (m.writeRun addr bs).read a = m.read a := by
  induction bs generalizing m addr with
  | nil => rfl
  | cons b bs ih =>
    simp only [List.length_cons] at h
    rw [Memory.writeRun, ih _ (by omega), Memory.read_write_other _ _ (by omega)]

theorem Memory.read_writeRun_inside (bs : List Byte) (m : Memory) {addr k : Nat} (h : k < bs.length) :
    (m.writeRun addr bs).read (addr + k) = bs[k]? := by
  induction bs generalizing m addr k with
  | nil => simp at h
  | cons b bs ih =>
    cases k with
    | zero =>
      rw [Memory.writeRun, Memory.read_writeRun_outside _ _ (by omega)]
      simp
    | succ k =>
      have := ih (m.write addr b) (addr := addr + 1) (k := k) (by simpa using h)
      simpa [Memory.writeRun, Nat.add_assoc, Nat.add_comm 1 k] using this

theorem Memory.read_forgetRun_outside (n : Nat) (m : Memory) {addr a : Nat} (h : a < addr ∨ addr + n ≤ a) :
    (m.forgetRun addr n).read a = m.read a := by
  induction n generalizing m addr with
  | zero => rfl
  | succ n ih => rw [Memory.forgetRun, ih _ (by omega), Memory.read_forget_other _ (by omega)]

theorem Memory.read_forgetRun_inside (n : Nat) (m : Memory) {addr a : Nat} (h1 : addr ≤ a) (h2 : a < addr + n) :
    (m.forgetRun addr n).read a = none := by
  induction n generalizing m addr with
  | zero => omega
  | succ n ih =>
    rw [Memory.forgetRun]
    by_cases h : a = addr
    · subst h
      rw [Memory.read_forgetRun_outside _ _ (by omega), Memory.read_forget_same]
    · exact ih _ (by omega) (by omega)

@[simp] theorem Memory.deliver_length (m : Memory) (addr n d : Nat) : (m.deliver addr n d).length = n := by
  induction n generalizing addr d with
  | zero => rfl
  | succ n ih => simp [Memory.deliver, ih]

theorem Memory.getElem?_deliver (m : Memory) {addr n d k : Nat} (h : k < n) :
    (m.deliver addr n d)[k]? = some ((m.read (addr + k)).getD (Config.freeByte (d + k))) := by
  induction n generalizing addr d k with
  | zero => omega
  | succ n ih =>
    cases k with
    | zero => simp [Memory.deliver]
    | succ k =>
      have := ih (addr := addr + 1) (d := d + 1) (k := k) (by omega)
      simpa [Memory.deliver, Nat.add_assoc, Nat.add_comm 1 k] using this

/-! The canonical form. -/

theorem Memory.risingFrom_mono {lo lo' : Nat} {m : Memory} (h : lo' ≤ lo) (hm : m.risingFrom lo = true) :
    m.risingFrom lo' = true := by
  cases m with
  | nil => rfl
  | cons c rest =>
    simp only [Memory.risingFrom, Bool.and_eq_true, decide_eq_true_eq] at hm ⊢
    exact ⟨⟨by omega, hm.1.2⟩, hm.2⟩

theorem Memory.risingFrom_write {lo a : Nat} {m : Memory} (v : Byte) (hm : m.risingFrom lo = true) (h : lo ≤ a)
    (ha : a ≤ lastRegister) : (m.write a v).risingFrom lo = true := by
  induction m generalizing lo with
  | nil => simp [Memory.write, Memory.risingFrom, h, ha]
  | cons c rest ih =>
    obtain ⟨b, w⟩ := c
    simp only [Memory.risingFrom, Bool.and_eq_true, decide_eq_true_eq] at hm
    by_cases h1 : a < b
    · have hb : a + 1 ≤ b := h1
      simp [Memory.write, Memory.risingFrom, h1, h, ha, hb, hm.1.2, hm.2]
    · by_cases h2 : a = b
      · subst h2
        simp [Memory.write, Memory.risingFrom, h, ha, hm.2]
      · simp [Memory.write, Memory.risingFrom, h1, h2, hm.1.1, hm.1.2, ih hm.2 (by omega)]

theorem Memory.risingFrom_forget {lo a : Nat} {m : Memory} (hm : m.risingFrom lo = true) :
    (m.forget a).risingFrom lo = true := by
  induction m generalizing lo with
  | nil => rfl
  | cons c rest ih =>
    obtain ⟨b, w⟩ := c
    simp only [Memory.risingFrom, Bool.and_eq_true, decide_eq_true_eq] at hm
    by_cases h : b = a
    · have := risingFrom_mono (lo' := lo) (by omega) (ih hm.2)
      simpa [Memory.forget, h] using this
    · have := ih hm.2
      simp only [Memory.forget] at this
      simp [Memory.forget, Memory.risingFrom, h, hm.1.1, hm.1.2, this]

theorem Memory.wf_nil : Memory.wf [] = true := rfl

theorem Memory.wf_write {m : Memory} {a : Nat} (v : Byte) (hm : m.wf = true) (ha : a ≤ lastRegister) :
    (m.write a v).wf = true := risingFrom_write v hm (Nat.zero_le a) ha

theorem Memory.wf_forget {m : Memory} (a : Nat) (hm : m.wf = true) : (m.forget a).wf = true := risingFrom_forget hm

theorem Memory.wf_writeRun {bs : List Byte} {m : Memory} {addr : Nat} (hm : m.wf = true)
    (h : addr + bs.length ≤ lastRegister + 1) : (m.writeRun addr bs).wf = true := by
  induction bs generalizing m addr with
  | nil => exact hm
  | cons b bs ih =>
    simp only [List.length_cons] at h
    exact ih (wf_write b hm (by omega)) (by omega)

theorem Memory.wf_forgetRun {n : Nat} {m : Memory} {addr : Nat} (hm : m.wf = true) :
    (m.forgetRun addr n).wf = true := by
  induction n generalizing m addr with
  | zero => exact hm
  | succ n ih => exact ih (wf_forget addr hm)

theorem Memory.wf_applyChanges {cs : List Host.Cell} {m : Memory} (hm : m.wf = true) :
    (m.applyChanges cs).wf = true := by
  induction cs generalizing m with
  | nil => exact hm
  | cons c cs ih =>
    obtain ⟨a, v⟩ := c
    rw [Memory.applyChanges]
    split
    · exact ih (wf_write v hm ‹_›)
    · exact ih hm

theorem State.reset_dev_wf : State.reset.dev.wf = true := rfl

end Sys2Proof.Machine
end

