-- ==== Sys2Proof/Laws/Record.lean ====
section
/-! SUPPORT. The record: read after write, the records a snapshot and an unspecified read leave, and what `Encode` over
a list of fields can do. -/

namespace Sys2Proof.Machine

@[simp] theorem Record.get_set_same (r : Record) (f : RecField) (b : RecByte) : (r.set f b).get f = b := by
  cases f <;> rfl

theorem Record.get_set_other (r : Record) {f g : RecField} (b : RecByte) (h : g ≠ f) : (r.set f b).get g = r.get g := by
  cases f <;> cases g <;> first | rfl | exact absurd rfl h

@[simp] theorem Record.get_build (v : RecField → RecByte) (f : RecField) : (Record.build v).get f = v f := by
  cases f <;> rfl

theorem Record.ext_get {r r' : Record} (h : ∀ f, r.get f = r'.get f) : r = r' := by
  cases r
  cases r'
  exact Record.mk.injEq .. ▸ ⟨h .hund, h .sec, h .minute, h .hour, h .date, h .month, h .year, h .wday⟩

theorem RecField.index_lt (f : RecField) : f.index < 8 := by cases f <;> decide

@[simp] theorem RecField.mem_all (f : RecField) : f ∈ RecField.all := by cases f <;> decide

theorem RecField.getElem?_all (f : RecField) : RecField.all[f.index]? = some f := by cases f <;> rfl

@[simp] theorem mem_validationOrder (f : RecField) : f ∈ validationOrder := by cases f <;> decide

@[simp] theorem fieldOfIndex_index (f : RecField) : fieldOfIndex f.index = some f := by cases f <;> rfl

theorem fieldOfIndex_eq_none {n : Nat} : fieldOfIndex n = none ↔ 7 < n := by
  unfold fieldOfIndex
  rw [List.getElem?_eq_none_iff]
  exact Iff.rfl

/-- Everything `Encode` over a list can do: it succeeds when every field passes. -/
theorem encodeFields_fst (d : DateTime) (fs : List RecField) (r : Record) :
    (encodeFields d fs r).1 = fs.all (operandInRange d) := by
  induction fs generalizing r with
  | nil => rfl
  | cons f fs ih => by_cases h : operandInRange d f = true <;> simp [encodeFields, h, ih]

/-- Everything `Encode` over a list can do: the fields before the first failing one are stored, no other changes. -/
theorem encodeFields_get (d : DateTime) (fs : List RecField) (r : Record) (g : RecField) :
    (encodeFields d fs r).2.get g =
      if g ∈ fs.takeWhile (operandInRange d) then .determined (toBcd (storedValue d g)) else r.get g := by
  induction fs generalizing r with
  | nil => simp [encodeFields]
  | cons f fs ih =>
    by_cases h : operandInRange d f = true
    · simp only [encodeFields, h, if_true, ih, List.takeWhile_cons, List.mem_cons]
      by_cases hg : g ∈ fs.takeWhile (operandInRange d)
      · simp [hg]
      · by_cases hf : g = f
        · subst hf
          simp [hg]
        · simp [hg, hf, Record.get_set_other]
    · simp [encodeFields, h]

end Sys2Proof.Machine
end

