-- ==== Sys2Proof/Laws/Transport.lean ====
section
/-! SUPPORT. The transport's two primitives and the device's own moves: each operation's lemmas say everything it can
do. -/

namespace Sys2Proof.Machine

@[simp] theorem State.afterAnswer_record (s : State) : s.afterAnswer.record = s.record := by
  unfold State.afterAnswer; split <;> rfl
@[simp] theorem State.afterAnswer_dev (s : State) : s.afterAnswer.dev = s.dev := by
  unfold State.afterAnswer; split <;> rfl
@[simp] theorem State.afterAnswer_inbox (s : State) : s.afterAnswer.inbox = s.inbox := by
  unfold State.afterAnswer; split <;> rfl
@[simp] theorem State.afterAnswer_outbox (s : State) : s.afterAnswer.outbox = s.outbox := by
  unfold State.afterAnswer; split <;> rfl
@[simp] theorem State.afterAnswer_trace (s : State) : s.afterAnswer.trace = s.trace := by
  unfold State.afterAnswer; split <;> rfl
@[simp] theorem State.afterAnswer_answers (s : State) : s.afterAnswer.answers = s.answers.tail := by
  unfold State.afterAnswer; split <;> simp_all
@[simp] theorem State.afterAnswer_deviceChanges (s : State) : s.afterAnswer.deviceChanges = s.deviceChanges := by
  unfold State.afterAnswer; split <;> rfl
@[simp] theorem State.afterAnswer_params (s : State) : s.afterAnswer.params = s.params := by
  unfold State.afterAnswer; split <;> rfl

theorem State.draws_le_afterAnswer (s : State) : s.draws ≤ s.afterAnswer.draws := by
  unfold State.afterAnswer; split <;> simp

/-- A stated answer is the answer. -/
theorem State.transportAnswer_of_stated {s : State} {a : Bool} {rest : List Bool} (h : s.answers = a :: rest) :
    s.transportAnswer = a := by
  simp [State.transportAnswer, h]

/-- Using up a stated answer changes the list of answers alone. -/
theorem State.afterAnswer_of_stated {s : State} {a : Bool} {rest : List Bool} (h : s.answers = a :: rest) :
    s.afterAnswer = { s with answers := rest } := by
  simp [State.afterAnswer, h]

theorem State.memRead_of_success {s : State} (addr n : Nat) (h : s.transportAnswer = true) :
    s.memRead addr n = (some (s.dev.deliver addr n s.afterAnswer.draws),
      (s.afterAnswer.spend n).log (.read addr n (some (s.dev.deliver addr n s.afterAnswer.draws)))) := by
  simp [State.memRead, h]

theorem State.memRead_of_failure {s : State} (addr n : Nat) (h : s.transportAnswer = false) :
    s.memRead addr n = (none, s.afterAnswer.log (.read addr n none)) := by
  simp [State.memRead, h]

theorem State.memWrite_of_success {s : State} (addr : Nat) (bs : List Byte) (h : s.transportAnswer = true) :
    s.memWrite addr bs =
      (true, (s.afterAnswer.setDev (s.dev.writeRun addr bs)).log (.write addr bs true)) := by
  simp [State.memWrite, h]

theorem State.memWrite_of_failure {s : State} (addr : Nat) (bs : List Byte) (h : s.transportAnswer = false) :
    s.memWrite addr bs =
      (false, (s.afterAnswer.setDev (s.dev.forgetRun addr bs.length)).log (.write addr bs false)) := by
  simp [State.memWrite, h]

@[simp] theorem State.memWrite_fst (s : State) (addr : Nat) (bs : List Byte) :
    (s.memWrite addr bs).1 = s.transportAnswer := by
  cases h : s.transportAnswer <;> simp [State.memWrite, h]

/-- The device's own moves change the device's registers and the list of stated changes alone. -/
theorem State.deviceMoves_eq (s : State) :
    s.deviceMoves = { s with dev := s.deviceMoves.dev, deviceChanges := s.deviceChanges.tail } := by
  unfold State.deviceMoves
  split <;> simp_all [State.setDev]

@[simp] theorem State.deviceMoves_inbox (s : State) : s.deviceMoves.inbox = s.inbox := by rw [State.deviceMoves_eq]
@[simp] theorem State.deviceMoves_outbox (s : State) : s.deviceMoves.outbox = s.outbox := by rw [State.deviceMoves_eq]
@[simp] theorem State.deviceMoves_trace (s : State) : s.deviceMoves.trace = s.trace := by rw [State.deviceMoves_eq]
@[simp] theorem State.deviceMoves_record (s : State) : s.deviceMoves.record = s.record := by rw [State.deviceMoves_eq]
@[simp] theorem State.deviceMoves_params (s : State) : s.deviceMoves.params = s.params := by rw [State.deviceMoves_eq]

theorem State.wf_deviceMoves {s : State} (h : s.dev.wf = true) : s.deviceMoves.dev.wf = true := by
  unfold State.deviceMoves
  split
  · exact Memory.wf_applyChanges h
  · rfl

theorem State.wf_memRead {s : State} (addr n : Nat) (h : s.dev.wf = true) : (s.memRead addr n).2.dev.wf = true := by
  cases ha : s.transportAnswer <;> simp [State.memRead, ha, h]

theorem State.wf_memWrite {s : State} {addr : Nat} {bs : List Byte} (h : s.dev.wf = true)
    (hb : addr + bs.length ≤ lastRegister + 1) : (s.memWrite addr bs).2.dev.wf = true := by
  cases ha : s.transportAnswer
  · simp [State.memWrite, ha, Memory.wf_forgetRun h]
  · simp [State.memWrite, ha, Memory.wf_writeRun h hb]

end Sys2Proof.Machine
end

