-- ==== Sys2Proof/Machine/BlockStep.lean ====
section
/-! DEFINITION. The block by itself: 10_state.md R10, R19. -/

namespace Sys2Proof.Machine

/-- The block's step in R19's form: the state is the record; the parameters, the command with its operands, and (through
the plan) the transport's answer are arguments; the response is a result. `free` numbers the free values (log entry 5). -/
def blockStep (p : Params) (i : Instr) (free : Nat) (r : Record) : Plan :=
  match i with
  | .tobcd d => tobcdPlan d free r
  | .frombcd b => frombcdPlan b free r
  | .setdt d => setdtPlan d r
  | .setcmp field value => setcmpPlan p field value r
  | .sync => syncPlan free r
  | .getdt => getdtPlan
  | .setalm d => setalmPlan p d r

end Sys2Proof.Machine
end

