-- ==== Sys2Proof/Laws/Block.lean ====
section
/-! SUPPORT. Every command is its plan carried out, and everything carrying out a plan can do. -/

namespace Sys2Proof.Machine

/-- Every command is the block's step (R19) carried out. -/
theorem exec_eq_carryOut (i : Instr) (s : State) :
    exec i s = .next (s.carryOut (blockStep s.params i s.draws s.record)) := by
  cases i <;> rfl

@[simp] theorem State.carryOut_answer (s : State) (e : Ending) : s.carryOut (.answer e) = s.finish e := rfl

theorem State.carryOut_read_of_success {s : State} (addr n : Nat) (onReply : Nat → Option (List Byte) → Ending)
    (h : s.transportAnswer = true) :
    s.carryOut (.read addr n onReply) =
      ((s.afterAnswer.spend n).log (.read addr n (some (s.dev.deliver addr n s.afterAnswer.draws)))).finish
        (onReply (s.afterAnswer.draws + n) (some (s.dev.deliver addr n s.afterAnswer.draws))) := by
  simp [State.carryOut, State.memRead_of_success addr n h]

theorem State.carryOut_read_of_failure {s : State} (addr n : Nat) (onReply : Nat → Option (List Byte) → Ending)
    (h : s.transportAnswer = false) :
    s.carryOut (.read addr n onReply) =
      (s.afterAnswer.log (.read addr n none)).finish (onReply s.afterAnswer.draws none) := by
  simp [State.carryOut, State.memRead_of_failure addr n h]

theorem State.carryOut_write_of_success {s : State} (addr : Nat) (bs : List Byte) (onReply : Bool → Ending)
    (h : s.transportAnswer = true) :
    s.carryOut (.write addr bs onReply) =
      ((s.afterAnswer.setDev (s.dev.writeRun addr bs)).log (.write addr bs true)).finish (onReply true) := by
  simp [State.carryOut, State.memWrite_of_success addr bs h]

theorem State.carryOut_write_of_failure {s : State} (addr : Nat) (bs : List Byte) (onReply : Bool → Ending)
    (h : s.transportAnswer = false) :
    s.carryOut (.write addr bs onReply) =
      ((s.afterAnswer.setDev (s.dev.forgetRun addr bs.length)).log (.write addr bs false)).finish (onReply false) := by
  simp [State.carryOut, State.memWrite_of_failure addr bs h]

/-- Carrying out any plan takes nothing from the command port and gives one response. -/
theorem State.carryOut_ports (s : State) (p : Plan) :
    (∃ r, (s.carryOut p).outbox = r :: s.outbox) ∧ (s.carryOut p).inbox = s.inbox ∧
      (s.carryOut p).deviceChanges = s.deviceChanges ∧ (s.carryOut p).params = s.params := by
  cases p with
  | answer e => simp
  | read addr n onReply =>
    cases h : s.transportAnswer
    · simp [State.carryOut_read_of_failure addr n onReply h]
    · simp [State.carryOut_read_of_success addr n onReply h]
  | write addr bs onReply =>
    cases h : s.transportAnswer
    · simp [State.carryOut_write_of_failure addr bs onReply h]
    · simp [State.carryOut_write_of_success addr bs onReply h]

end Sys2Proof.Machine
end

