-- ==== Sys2Proof/Laws/Operands.lean ====
section
/-! SUPPORT. The range checks as inequalities. -/

namespace Sys2Proof.Machine

theorem withinRange_iff (r : Nat × Nat) (x : Nat) : withinRange r x = true ↔ r.1 ≤ x ∧ x ≤ r.2 := by
  simp [withinRange]

theorem operandInRange_iff (d : DateTime) (f : RecField) :
    operandInRange d f = true ↔ (storedRange f).1 + operandBase f ≤ fieldOperand d f ∧
      fieldOperand d f ≤ (storedRange f).2 + operandBase f :=
  withinRange_iff _ _

theorem componentInRange_iff (f : RecField) (value : Byte) :
    componentInRange f value = true ↔ (storedRange f).1 ≤ value.toNat ∧ value.toNat ≤ (storedRange f).2 :=
  withinRange_iff _ _

/-- The year's stored value is its offset from 2000, once the check has passed (R42, R64). -/
theorem storedValue_year {d : DateTime} (h : operandInRange d .year = true) :
    2000 + storedValue d .year = d.year.toNat := by
  have h' : 2000 ≤ d.year.toNat := by
    have := ((operandInRange_iff d .year).1 h).1
    simpa [storedRange, operandBase, fieldOperand, yearBase] using this
  have hlt := d.year.isLt
  simp only [storedValue, yearBase, BitVec.toNat_sub, BitVec.toNat_ofNat]
  omega

/-- An operand that passes its check stores a number up to 99, so the codec is called inside its domain (R72). -/
theorem storedValue_le_of_inRange {d : DateTime} {f : RecField} (h : operandInRange d f = true) :
    storedValue d f ≤ 99 := by
  have h' := (operandInRange_iff d f).1 h
  cases f with
  | year =>
    have h2 := storedValue_year h
    simp only [storedRange, operandBase, fieldOperand, yearBase] at h'
    omega
  | hund => exact h'.2
  | sec => exact Nat.le_trans h'.2 (by decide)
  | minute => exact Nat.le_trans h'.2 (by decide)
  | hour => exact Nat.le_trans h'.2 (by decide)
  | date => exact Nat.le_trans h'.2 (by decide)
  | month => exact Nat.le_trans h'.2 (by decide)
  | wday => exact Nat.le_trans h'.2 (by decide)

end Sys2Proof.Machine
end

