-- ==== Sys2Proof/Laws/PerInstr.lean ====
section
/-! SUPPORT. Statements made per instruction: a command's frame has the length its opcode byte calls for (R48, R49). -/

namespace Sys2Proof.Laws.FrameShape

/-- The frame fits the longest one and has the length that its opcode byte alone fixes. -/
def Statement (i : Instr) : Prop :=
  (encode i).length ≤ longestFrame ∧ frameLength (opcode i) = some (encode i).length

theorem tobcd (d : Byte) : Statement (.tobcd d) := ⟨show 2 ≤ 10 by decide, rfl⟩

theorem frombcd (b : Byte) : Statement (.frombcd b) := ⟨show 2 ≤ 10 by decide, rfl⟩

theorem setdt (dt : DateTime) : Statement (.setdt dt) := ⟨Nat.le_refl 10, rfl⟩

theorem setcmp (field value : Byte) : Statement (.setcmp field value) := ⟨show 3 ≤ 10 by decide, rfl⟩

theorem sync : Statement .sync := ⟨by decide, rfl⟩

theorem getdt : Statement .getdt := ⟨by decide, rfl⟩

theorem setalm (dt : DateTime) : Statement (.setalm dt) := ⟨Nat.le_refl 10, rfl⟩

end Sys2Proof.Laws.FrameShape
end

