-- ==== Sys2Proof/Tests/Slice0.lean ====
section
/-! SUPPORT. Tests of one step on small states, expected results from 95_test_vectors.md and the worked examples of
40_bcd_codec.md, 41_datetime_model.md and 42_alarm_compare.md; then a witness for every statement with hypotheses. -/

namespace Sys2Proof.Tests

open Sys2Proof.Machine Sys2Proof.Safety

/-! Helpers. -/

/-- The state a command leaves. -/
def after (i : Instr) (s : State) : State :=
  match exec i s with
  | .next t => t
  | .fault _ => s
  | .refused _ => s

/-- The state a step leaves. -/
def stepped (s : State) : State :=
  match step s with
  | .next t => t
  | .fault _ => s
  | .refused _ => s

/-- `REC` as the vectors write it: none for `--`. -/
def recBytes (s : State) : List (Option Byte) :=
  RecField.all.map fun f => if (s.record.get f).written then some (s.record.get f).val else none

/-- `DEV[a..a+n-1]` as the vectors write it. -/
def regs (s : State) (a n : Nat) : List (Option Byte) := (List.range n).map fun k => s.dev.read (a + k)

/-- All bytes determined. -/
def known (bs : List Byte) : List (Option Byte) := bs.map some

/-- A state with a record, device registers 0x00 to 0x07 and 0x08 to 0x0F, and the transport's answers. -/
def start (record time alarm : List Byte) (answers : List Bool) : State :=
  { State.reset with
    record := Record.snapshot record, dev := (Memory.writeRun [] 0 time).writeRun 8 alarm, answers := answers }

/-- The bytes 11 to all eight places. -/
def ones : List Byte := List.replicate 8 0x11

/-- The bytes EE to all eight places. -/
def alarms : List Byte := List.replicate 8 0xEE

/-- 2021-05-04T08:09:10, hundredths 37. -/
def clock : List Byte := [0x37, 0x10, 0x09, 0x08, 0x04, 0x05, 0x21, 0x02]

/-- Section 2.3's start state. -/
def ready : State := start ones clock alarms [true, true]

/-- The same with a transport that fails twice. -/
def broken : State := start ones clock alarms [false, false]

/-- 2021-05-04 (Tuesday) 08:09:10.00, the spec's worked example. -/
def worked : DateTime := DateTime.mk 2021 5 4 2 8 9 10 0

/-- The upper bounds. -/
def upper : DateTime := DateTime.mk 2099 12 31 6 23 59 59 99

/-- The lower bounds. -/
def lower : DateTime := DateTime.mk 2000 1 1 0 0 0 0 0

/-- Section 2.2's row hour 24. -/
def hour24 : DateTime := DateTime.mk 2020 1 1 3 24 9 10 0

/-- Section 2.2's row year 1999. -/
def year1999 : DateTime := DateTime.mk 1999 5 4 2 8 9 10 0

/-! WellFormed. -/

/-- R54: field 8 is no legal encoding, 7 is. -/
theorem test_wellFormed_refuses_field_8 :
    (Instr.setcmp 8 45).wellFormed = false ∧ (Instr.setcmp 7 45).wellFormed = true := by decide

/-! Decoding: words written out from the opcode table's encoding column. -/

theorem test_decode_tobcd : decode [0b00000001, 0b00111011] = .command (.tobcd 59) [] := by decide

theorem test_decode_frombcd : decode [0b00000010, 0b01011001] = .command (.frombcd 0x59) [] := by decide

theorem test_decode_setdt : decode [0b00010000, 0b00001000, 0b00110011, 0b00001100, 0b00011111, 0b00000110, 0b00010111,
    0b00111011, 0b00111011, 0b01100011] = .command (.setdt upper) [] := by decide

theorem test_decode_setcmp : decode [0b00010001, 0b00000010, 0b00101101] = .command (.setcmp 2 45) [] := by decide

theorem test_decode_sync : decode [0b00010010] = .command .sync [] := by decide

theorem test_decode_getdt : decode [0b00010011] = .command .getdt [] := by decide

theorem test_decode_setalm : decode [0b00100000, 0b00000111, 0b11100101, 0b00000101, 0b00000100, 0b00000010, 0b00001000,
    0b00001001, 0b00001010, 0b00000000] = .command (.setalm worked) [] := by decide

/-- Section 2.7: three illegal opcodes and the two illegal fields, with the bytes consumed. -/
theorem test_decode_illegal : decode [0x00] = .illegalOpcode 0x00 [] ∧ decode [0x14] = .illegalOpcode 0x14 [] ∧
    decode [0x7F, 0x12] = .illegalOpcode 0x7F [0x12] ∧ decode [0x11, 0x08, 0x2D] = .illegalField 0x08 [] ∧
    decode [0x11, 0xFF, 0xFF] = .illegalField 0xFF [] := by decide

/-- A row's word has its opcode in the most significant byte. -/
theorem test_decodeTableWord : decodeTableWord 16 0x013B = some (.tobcd 59) ∧ decodeTableWord 8 0x13 = some .getdt ∧
    decodeTableWord 80 0x2007E505040208090A00 = some (.setalm worked) ∧ decodeTableWord 8 0x14 = none := by decide

/-- The first step after reset runs the word placed. -/
theorem test_withFetchWord :
    (stepped (State.reset.withFetchWord 16 0x013B)).outbox = [{ status := .ok, data := [0x59] }] := by decide

/-- Section 2.7, row `7F 12`: one byte consumed, ILLEGAL. -/
theorem test_step_illegal :
    (stepped { ready with inbox := [0x7F, 0x12] }).inbox = [0x12] ∧
    (stepped { ready with inbox := [0x7F, 0x12] }).outbox = [{ status := .illegal, data := [] }] := by decide

/-! The commands. -/

theorem test_tobcd_carry : (after (.tobcd 10) State.reset).outbox.map Response.frame = [[0x01, 0x10]] := by decide

theorem test_tobcd_highest : (after (.tobcd 99) State.reset).outbox.map Response.frame = [[0x01, 0x99]] := by decide

theorem test_frombcd_ten : (after (.frombcd 0x10) State.reset).outbox.map Response.frame = [[0x01, 0x0A]] := by decide

theorem test_frombcd_highest : (after (.frombcd 0x99) State.reset).outbox.map Response.frame = [[0x01, 0x63]] := by decide

/-- Section 2.2, upper bounds. -/
theorem test_setdt_upper : recBytes (after (.setdt upper) ready) = known [0x99, 0x59, 0x59, 0x23, 0x31, 0x12, 0x99, 0x06] ∧
    (after (.setdt upper) ready).outbox.map Response.frame = [[0x01]] := by decide

/-- Section 2.2, from reset, hour 24. -/
theorem test_setdt_partial : recBytes (after (.setdt hour24) State.reset) =
      [none, none, none, none, some 0x01, some 0x01, some 0x20, some 0x03] ∧
    (after (.setdt hour24) State.reset).outbox.map Response.frame = [[0x00]] := by decide

/-- Section 2.3, MIN 45. -/
theorem test_setcmp_min : recBytes (after (.setcmp 2 45) ready) = known [0x37, 0x10, 0x45, 0x08, 0x04, 0x05, 0x21, 0x02] ∧
    (after (.setcmp 2 45) ready).dev = ready.dev := by decide

/-- Section 2.3, MIN 100: the field holds no determined value. -/
theorem test_setcmp_undetermined : recBytes (after (.setcmp 2 100) ready) =
      [some 0x37, some 0x10, none, some 0x08, some 0x04, some 0x05, some 0x21, some 0x02] ∧
    (after (.setcmp 2 100) ready).outbox.map Response.frame = [[0x01]] := by decide

/-- Section 2.4: no validation; the alarm registers keep their bytes. -/
theorem test_sync_writes : regs (after .sync (start [0xFF, 0x80, 0x45, 0x08, 0x04, 0x13, 0x21, 0x07] clock alarms [true]))
    0 9 = known [0xFF, 0x80, 0x45, 0x08, 0x04, 0x13, 0x21, 0x07, 0xEE] := by decide

/-- Section 2.4: a failed write leaves the run unspecified. -/
theorem test_sync_fails : regs (after .sync broken) 0 9 = List.replicate 8 none ++ [some 0xEE] ∧
    (after .sync broken).outbox.map Response.frame = [[0x00]] := by decide

/-- Section 2.5, first row. -/
theorem test_getdt_text : (after .getdt ready).outbox.map Response.frame = [[0x01, 0x32, 0x30, 0x32, 0x31, 0x2D, 0x30, 0x35,
    0x2D, 0x30, 0x34, 0x54, 0x30, 0x38, 0x3A, 0x30, 0x39, 0x3A, 0x31, 0x30]] := by decide

/-- Section 2.5, last row. -/
theorem test_getdt_fails : recBytes (after .getdt broken) = List.replicate 8 none ∧
    (after .getdt broken).outbox.map Response.status = [.fail] := by decide

/-- Section 2.6, `skip_year`. -/
theorem test_setalm_skip_year :
    regs (after (.setalm worked) { ready with params := { ready.params with alarmPayload := .skipYear } }) 7 9 =
      known [0x02, 0x00, 0x10, 0x09, 0x08, 0x04, 0x05, 0x02, 0xEE] := by decide

/-- Section 2.6, minute 60: no transaction, partial mutation. -/
theorem test_setalm_minute_60 : (after (.setalm { worked with minute := 60 }) ready).trace = [] ∧
    recBytes (after (.setalm { worked with minute := 60 }) ready) =
      known [0x11, 0x11, 0x11, 0x08, 0x04, 0x05, 0x21, 0x02] := by decide

/-- P6: the runs the spec would refuse are those in which the host has not met R124. -/
theorem test_hostMeets : ¬ hostMeets .sync State.reset ∧ ¬ hostMeets (.tobcd 100) State.reset ∧
    ¬ hostMeets (.frombcd 0xFF) State.reset ∧ hostMeets .sync ready := by
  refine ⟨fun h => ?_, by simp [hostMeets], by simp [hostMeets]; decide, fun f => ?_⟩
  · have := h .hund; revert this; decide
  · cases f <;> decide

/-! Witnesses: each statement's hypotheses met together, and the clauses of each at the ends of their ranges. -/

/-- The lower and the upper bounds are in range, and 31 February with the other fields at either end. -/
theorem test_valid_bounds : AllValid lower ∧ AllValid upper ∧ AllValid { lower with month := 2, day := 31 } ∧
    AllValid { upper with month := 2, day := 31 } ∧ AllValid worked := by
  refine ⟨?_, ?_, ?_, ?_, ?_⟩ <;> intro f <;> cases f <;> simp [Valid, lower, upper, worked]

/-- One past each end: a year of 1999 or 2100, a month of 0 or 13, a day of 0 or 32. -/
theorem test_invalid_lower_bounds : ¬ Valid year1999 .year ∧ ¬ Valid { lower with year := 2100 } .year ∧
    ¬ Valid { lower with month := 0 } .month ∧ ¬ Valid { lower with month := 13 } .month ∧
    ¬ Valid { lower with day := 0 } .date ∧ ¬ Valid { lower with day := 32 } .date := by
  simp [Valid, year1999]

/-- One past the upper end of the other five. -/
theorem test_invalid_upper_bounds : ¬ Valid { lower with dow := 7 } .wday ∧ ¬ Valid { lower with hour := 24 } .hour ∧
    ¬ Valid { lower with minute := 60 } .minute ∧ ¬ Valid { lower with second := 60 } .sec ∧
    ¬ Valid { lower with hundredth := 100 } .hund := by
  simp [Valid]

/-- A record of bytes all read from the device is determined. -/
theorem test_ready_determined : Determined ready.record := by intro f; cases f <;> decide

/-- hour 24 is not valid. -/
theorem test_hour24_invalid : ¬ AllValid hour24 := fun h => by simpa [Valid, hour24] using h .hour

theorem test_witness_TobcdPacksTensAndOnes : (0 : Byte).toNat ≤ 99 ∧ (99 : Byte).toNat ≤ 99 := by decide

theorem test_witness_FrombcdUnpacksTensAndOnes : BcdByte 0x00 ∧ BcdByte 0x99 ∧ BcdByte 0x09 ∧ BcdByte 0x90 := by
  unfold BcdByte; decide

theorem test_witness_CodecIsPure :
    (∃ d : Byte, Instr.tobcd 99 = .tobcd d ∧ d.toNat ≤ 99) ∧ ∃ b : Byte, Instr.frombcd 0x99 = .frombcd b ∧ BcdByte b :=
  ⟨⟨99, rfl, by decide⟩, 0x99, rfl, by unfold BcdByte; decide⟩

theorem test_witness_CodecRoundTrip : (99 : Byte).toNat ≤ 99 ∧ BcdByte 0x99 := by unfold BcdByte; decide

theorem test_witness_BcdByteRoundTrip : BcdByte 0x00 ∧ BcdByte 0x99 := by unfold BcdByte; decide

theorem test_witness_CodecOutOfDomainAnswersFreeByte :
    99 < (100 : Byte).toNat ∧ ¬ BcdByte 0x0A ∧ ¬ BcdByte 0xA0 ∧ 99 < (0xFF : Byte).toNat ∧ ¬ BcdByte 0xFF := by
  unfold BcdByte; decide

/-- hour 24: the four fields before it are reached, it and those after it are not; all eight are reached at the bounds. -/
theorem test_witness_SetdtStoresUpToFirstFailure :
    Reached hour24 .wday ∧ ¬ Reached hour24 .hour ∧ ¬ Reached hour24 .hund ∧ Valid hour24 .year ∧
    AllValid upper ∧ Reached upper .hund ∧ ¬ AllValid hour24 := by
  refine ⟨fun g h => ?_, fun h => ?_, fun h => ?_, by simp [Valid, hour24], test_valid_bounds.2.1,
    fun g _ => test_valid_bounds.2.1 g, test_hour24_invalid⟩
  · cases g <;> simp [rank, Valid, hour24] at h ⊢
  · simpa [Valid, hour24] using h .hour (Nat.le_refl _)
  · simpa [Valid, hour24] using h .hour (by decide)

theorem test_witness_SetdtValidatesEachFieldAlone :
    AllValid worked ∧ ¬ Valid hour24 .hour ∧ AllValid { worked with month := 2, day := 31 } := by
  refine ⟨test_valid_bounds.2.2.2.2, by simp [Valid, hour24], fun f => ?_⟩
  cases f <;> simp [Valid, worked]

theorem test_witness_EncodeStaysInCodecDomain : Reached lower .hund ∧ Reached upper .hund ∧ Reached hour24 .wday :=
  ⟨fun g _ => test_valid_bounds.1 g, fun g _ => test_valid_bounds.2.1 g,
    test_witness_SetdtStoresUpToFirstFailure.1⟩

theorem test_witness_FailedSetdtThenSyncWritesMixture :
    (Instr.setalm hour24 = .setdt hour24 ∨ Instr.setalm hour24 = .setalm hour24) ∧ Determined ready.record ∧
    ¬ AllValid hour24 ∧ ready.answers = true :: [true] :=
  ⟨.inr rfl, test_ready_determined, test_hour24_invalid, rfl⟩

/-- The read succeeds in `ready` and fails in `broken`; values at and past the ends of each clause. -/
theorem test_witness_SetcmpStoresSnapshotWithOneField : ready.transportAnswer = true ∧ broken.transportAnswer = false ∧
    ready.params.setcmpValidates = false ∧ (99 : Byte).toNat ≤ 99 ∧ 99 < (100 : Byte).toNat ∧
    ValidComponent 12 .month ∧ ¬ ValidComponent 13 .month ∧ RecField.month ≠ .hund := by
  refine ⟨rfl, rfl, rfl, by decide, by decide, ?_, ?_, by decide⟩ <;> simp [ValidComponent]

theorem test_witness_SetcmpValidationParameter :
    ({ ready with params := { ready.params with setcmpValidates := true } } : State).transportAnswer = true ∧
    ({ ready with params := { ready.params with setcmpValidates := true } } : State).params.setcmpValidates = true ∧
    ValidComponent 31 .date ∧ ¬ ValidComponent 0 .date ∧ ¬ ValidComponent 100 .year ∧ ValidComponent 99 .year := by
  refine ⟨rfl, rfl, ?_, ?_, ?_, ?_⟩ <;> simp [ValidComponent]

theorem test_witness_SetcmpResultAndFailedRead : ready.transportAnswer = true ∧
    (ready.params.setcmpValidates = true → ValidComponent 100 .minute) ∧ broken.transportAnswer = false :=
  ⟨rfl, fun h => absurd h (by decide), rfl⟩

theorem test_witness_SetcmpIllegalFieldDoesNothing : 7 < (8 : Byte).toNat ∧ 7 < (255 : Byte).toNat := by decide

theorem test_witness_SetcmpAndGetdtDiscardTheRecord : ready.transportAnswer = true ∧ RecField.hund ≠ .minute ∧
    ready.dev.read RecField.hund.index = some 0x37 := by decide

theorem test_witness_SetcmpThenSyncSetsClockBack : (45 : Byte).toNat ≤ 99 ∧ ready.params.setcmpValidates = false ∧
    ready.answers = true :: true :: [] ∧ ∀ g : RecField, ready.dev.read g.index = some (clock.getD g.index 0) :=
  ⟨by decide, rfl, rfl, fun g => by cases g <;> decide⟩

theorem test_witness_SyncWritesTheRecord : Determined ready.record ∧ ready.transportAnswer = true ∧
    Determined broken.record ∧ broken.transportAnswer = false :=
  ⟨test_ready_determined, rfl, test_ready_determined, rfl⟩

theorem test_witness_SyncSendsFreeBytesForUndetermined :
    (ready.record.get .hund).written = true ∧ (State.reset.record.get .hund).written = false := by decide

theorem test_witness_FailedSyncCanBeRepeated :
    Determined ({ ready with answers := [false, true] } : State).record ∧
    ({ ready with answers := [false, true] } : State).answers = false :: true :: [] :=
  ⟨test_ready_determined, rfl⟩

/-- The clock's bytes are BCD, the read succeeds in one state and fails in the other. -/
theorem test_witness_GetdtRendersTheRegisters : ready.transportAnswer = true ∧ broken.transportAnswer = false ∧
    ∀ b ∈ clock, BcdByte b := by
  refine ⟨rfl, rfl, ?_⟩; unfold BcdByte; decide

/-- Section 2.5, non-BCD seconds. -/
theorem test_witness_GetdtUnspecifiedText :
    exec .getdt broken = .next (after .getdt broken) ∧ broken.transportAnswer = false ∧
    (after .getdt (start ones [0x00, 0x5A, 0, 0, 1, 1, 0, 0] alarms [true])).trace =
      .read 0x00 8 (some [0x00, 0x5A, 0, 0, 1, 1, 0, 0]) :: [] ∧
    ∃ b ∈ ([0x00, 0x5A, 0, 0, 1, 1, 0, 0] : List Byte), ¬ BcdByte b := by
  refine ⟨rfl, rfl, by decide, 0x5A, by decide, ?_⟩; unfold BcdByte; decide

theorem test_witness_SetalmValidatesThenWritesOnce : AllValid worked ∧ ¬ AllValid hour24 ∧ 7 < 8 :=
  ⟨test_valid_bounds.2.2.2.2, test_hour24_invalid, by decide⟩

theorem test_witness_SetalmPayloadByParameter : AllValid upper ∧ ready.transportAnswer = true ∧
    broken.transportAnswer = false ∧ 6 < (payload .first7).length ∧ 6 < (payload .skipYear).length ∧
    7 < (payload .all8).length := by
  exact ⟨test_valid_bounds.2.1, rfl, rfl, by decide, by decide, by decide⟩

theorem test_witness_SetalmChecksBeforeTransaction : ¬ AllValid hour24 ∧ AllValid lower :=
  ⟨test_hour24_invalid, test_valid_bounds.1⟩

theorem test_witness_FailCarriesNoCause : ¬ AllValid hour24 ∧ AllValid worked ∧ broken.transportAnswer = false :=
  ⟨test_hour24_invalid, test_valid_bounds.2.2.2.2, rfl⟩

theorem test_witness_SetalmThenSyncSetsClockToAlarm : AllValid worked ∧ ready.answers = true :: true :: [] :=
  ⟨test_valid_bounds.2.2.2.2, rfl⟩

theorem test_witness_TransactionsMoveElementToRegister : ready.transportAnswer = true ∧ 7 < clock.length ∧
    (8 < 0x08 ∨ 0 + clock.length ≤ 8) ∧ ready.dev.read (0 + 7) = some 0x02 := by decide

theorem test_witness_FailedTransactionEffects : broken.transportAnswer = false ∧ (0 ≤ 7 ∧ 7 < 0 + clock.length) ∧
    (8 < 0 ∨ 0 + clock.length ≤ 8) := by decide

theorem test_witness_TransportFailureReportsFail : broken.transportAnswer = false ∧ AllValid worked :=
  ⟨rfl, test_valid_bounds.2.2.2.2⟩

theorem test_witness_TransactionsOfEachCommand : (7 : Byte).toNat ≤ 7 ∧ 7 < (8 : Byte).toNat ∧ AllValid upper ∧
    ¬ AllValid hour24 :=
  ⟨by decide, by decide, test_valid_bounds.2.1, test_hour24_invalid⟩

theorem test_witness_OnlySyncWritesTimeRegisters : Instr.setalm worked ≠ .sync ∧
    (∃ d, Instr.setdt worked = .setdt d) ∧ ∃ field value, Instr.setcmp 2 45 = .setcmp field value :=
  ⟨by decide, ⟨worked, rfl⟩, 2, 45, rfl⟩

/-- 0x0F is outside the payload but under `all8`, 0x10 always. -/
theorem test_witness_WritesStayInTimeAndAlarmRegisters : 0x0E < 0x0F ∧ ready.params.alarmPayload ≠ .all8 ∧
    (∀ d, Instr.sync ≠ .setalm d) ∧ 0x0E < 0x10 ∧ 0x10 ≠ 0x0F :=
  ⟨by decide, by decide, fun _ h => (by cases h), by decide, by decide⟩

/-- Two unwritten records with different stored bytes agree. -/
theorem test_witness_UndeterminedValuesAreNeverObserved : Agree State.reset
    { State.reset with record := { Record.reset with hund := { val := 1, written := false } } } := by
  refine ⟨fun f => ⟨?_, ?_⟩, rfl⟩
  · cases f <;> rfl
  · cases f <;> simp [State.reset, Record.reset, Record.get, RecByte.reset]

/-- A state with device registers, a stored transaction and a stored response that meets the invariant, and its step. -/
theorem test_witness_EveryStepKeepsInvariant : Inv (after .sync ready) ∧
    step { after .sync ready with inbox := [0x13] } = .next (stepped { after .sync ready with inbox := [0x13] }) := by
  refine ⟨⟨by decide, fun t h => ?_, fun r h => ?_⟩, rfl⟩
  · have : (after .sync ready).trace = [.write 0x00 ones true] := by decide
    rw [this, List.mem_singleton] at h
    subst h; simp [LegalTransaction, ones]
  · have : (after .sync ready).outbox = [{ status := .ok, data := [] }] := by decide
    rw [this, List.mem_singleton] at h
    subst h; simp [LegalResponse]

theorem test_witness_StepRunsDecodedInstruction :
    decode ({ ready with inbox := [0x11, 0x07, 0x06, 0x13] } : State).inbox = .command (.setcmp 7 6) [0x13] := by decide

theorem test_witness_IllegalFramesAnswerIllegal :
    (0x00 : Byte) ∉ ([0x01, 0x02, 0x10, 0x11, 0x12, 0x13, 0x20] : List Byte) ∧
    (0x21 : Byte) ∉ ([0x01, 0x02, 0x10, 0x11, 0x12, 0x13, 0x20] : List Byte) ∧ 7 < (8 : Byte).toNat ∧
    (∀ field value, Instr.setcmp 7 6 = .setcmp field value → field.toNat ≤ 7) ∧
    ({ ready with inbox := [0x11, 0x07, 0x06] } : State).inbox = encode (.setcmp 7 6) ++ [] := by
  refine ⟨by decide, by decide, by decide, fun field value h => ?_, by decide⟩
  cases h; decide

theorem test_witness_IncompleteFrameIsWaitedFor : State.reset.inbox = [] ∧
    ({ ready with inbox := [0x11, 0x07] } : State).inbox.head? = some 0x11 ∧ frameLength 0x11 = some 3 ∧
    ({ ready with inbox := [0x11, 0x07] } : State).inbox.length < 3 := by decide

theorem test_witness_DecodeOfEncode : (Instr.setcmp 7 255).wellFormed = true ∧ (Instr.setdt upper).wellFormed = true := by
  decide

theorem test_witness_EncodeOfDecode : decode [0x20, 0x07, 0xE5, 0x05, 0x04, 0x02, 0x08, 0x09, 0x0A, 0x00, 0x12] =
    .command (.setalm worked) [0x12] := by decide

/-- Two states that differ in the command port, the responses, the later answers and the coming changes. -/
theorem test_witness_CommandReadsRecordAndArgumentsAlone :
    let s' : State := { ready with
      inbox := [0x13], outbox := [illegalResponse], answers := [true, false], deviceChanges := [[(0, 1)]] }
    ready.record = s'.record ∧ ready.params = s'.params ∧ ready.dev = s'.dev ∧ ready.draws = s'.draws ∧
      ready.answers.head? = s'.answers.head? := by decide

theorem test_witness_SetcmpLosesUnsyncedSetdt : ready.transportAnswer = true ∧ RecField.year ≠ .minute := by decide

end Sys2Proof.Tests
end

section
/-! Two states that the block and the transport cannot tell apart: what a command does to them is the same
(10_state.md R10, R19). -/

namespace Sys2Proof.Machine

/-- The device's registers, the number of the next free value and the transport's next stated answer, if any, are the
same: all of the environment that one transaction can observe (R23, R24, R26). -/
structure State.SameTransport (s s' : State) : Prop where
  dev : s.dev = s'.dev
  draws : s.draws = s'.draws
  nextAnswer : s.answers.head? = s'.answers.head?

/-- The next transaction is answered by the next stated answer, or where none is stated by the next free one. -/
theorem State.transportAnswer_eq_getD (s : State) :
    s.transportAnswer = s.answers.head?.getD (Config.transportAnswer s.draws) := by
  unfold State.transportAnswer
  split <;> simp [*]

/-- Using up an answer draws a free value exactly when no answer is stated. -/
theorem State.afterAnswer_draws (s : State) :
    s.afterAnswer.draws = s.draws + if s.answers.head?.isSome then 0 else 1 := by
  unfold State.afterAnswer
  split <;> simp [*]

theorem State.SameTransport.transportAnswer_eq {s s' : State} (h : s.SameTransport s') :
    s.transportAnswer = s'.transportAnswer := by
  simp only [State.transportAnswer_eq_getD, h.nextAnswer, h.draws]

theorem State.SameTransport.afterAnswer_draws_eq {s s' : State} (h : s.SameTransport s') :
    s.afterAnswer.draws = s'.afterAnswer.draws := by
  simp only [State.afterAnswer_draws, h.nextAnswer, h.draws]

/-- From `s` to `t` and from `s'` to `t'` the block and the device do the same: the same record and registers at the
end, the same one response given, the same at most one transaction issued. -/
def State.SameEffect (s t s' t' : State) : Prop :=
  ∃ r ts, t.record = t'.record ∧ t.dev = t'.dev ∧ t.outbox = r :: s.outbox ∧ t'.outbox = r :: s'.outbox ∧
    t.trace = ts ++ s.trace ∧ t'.trace = ts ++ s'.trace ∧ ts.length ≤ 1

/-- A plan has the same effect on two states whose transports cannot be told apart. The plan's end depends on the state
only through the transport's answer, the bytes delivered and the number of the next free value. -/
theorem State.SameTransport.carryOut_sameEffect {s s' : State} (h : s.SameTransport s') (p : Plan) :
    State.SameEffect s (s.carryOut p) s' (s'.carryOut p) := by
  have hdraws := h.afterAnswer_draws_eq
  have hanswer := h.transportAnswer_eq
  cases p with
  | answer e => exact ⟨e.response, [], by simp [h.dev]⟩
  | read addr n onReply =>
    cases hs' : s'.transportAnswer <;> rw [hs'] at hanswer
    · rw [carryOut_read_of_failure addr n onReply hanswer, carryOut_read_of_failure addr n onReply hs']
      exact ⟨(onReply s'.afterAnswer.draws none).response, [.read addr n none], by simp [h.dev, hdraws]⟩
    · rw [carryOut_read_of_success addr n onReply hanswer, carryOut_read_of_success addr n onReply hs', h.dev, hdraws]
      generalize s'.dev.deliver addr n s'.afterAnswer.draws = delivered
      exact ⟨(onReply (s'.afterAnswer.draws + n) (some delivered)).response, [.read addr n (some delivered)],
        by simp [h.dev]⟩
  | write addr bytes onReply =>
    cases hs' : s'.transportAnswer <;> rw [hs'] at hanswer
    · rw [carryOut_write_of_failure addr bytes onReply hanswer, carryOut_write_of_failure addr bytes onReply hs']
      exact ⟨(onReply false).response, [.write addr bytes false], by simp [h.dev]⟩
    · rw [carryOut_write_of_success addr bytes onReply hanswer, carryOut_write_of_success addr bytes onReply hs']
      exact ⟨(onReply true).response, [.write addr bytes true], by simp [h.dev]⟩

/-- Settles O48: the two states give the command the same plan, since the block's step reads the record, the parameters
and the number of the next free value alone, and a plan has the same effect on both. -/
theorem commandReadsRecordAndArgumentsAlone : Obligations.CommandReadsRecordAndArgumentsAlone := by
  intro i s s' hrecord hparams hdev hdraws hanswer
  have hplan : blockStep s'.params i s'.draws s'.record = blockStep s.params i s.draws s.record := by
    rw [hrecord, hparams, hdraws]
  have htransport : s.SameTransport s' := ⟨hdev, hdraws, hanswer⟩
  obtain ⟨r, ts, heffect⟩ := htransport.carryOut_sameEffect (blockStep s.params i s.draws s.record)
  exact ⟨_, _, r, ts, exec_eq_carryOut i s, hplan ▸ exec_eq_carryOut i s', heffect⟩

end Sys2Proof.Machine
end

section
/-! One transaction seen from the state it leaves (20_memory.md R23 to R28): what the device's registers hold after it, and
the trace entry it adds. -/

namespace Sys2Proof.Machine

/-- A read changes the transport's answers, the number of the next free value and the trace alone. -/
theorem State.memRead_snd_eq (s : State) (addr n : Nat) :
    (s.memRead addr n).2 = { s with
      answers := s.answers.tail, draws := (s.memRead addr n).2.draws,
      trace := .read addr n (s.memRead addr n).1 :: s.trace } := by
  unfold State.memRead State.afterAnswer
  cases s.transportAnswer <;> cases h : s.answers <;> simp [State.log, State.spend, h]

@[simp] theorem State.memRead_dev (s : State) (addr n : Nat) : (s.memRead addr n).2.dev = s.dev := by
  rw [State.memRead_snd_eq]
@[simp] theorem State.memRead_outbox (s : State) (addr n : Nat) : (s.memRead addr n).2.outbox = s.outbox := by
  rw [State.memRead_snd_eq]
@[simp] theorem State.memRead_params (s : State) (addr n : Nat) : (s.memRead addr n).2.params = s.params := by
  rw [State.memRead_snd_eq]
@[simp] theorem State.memRead_trace (s : State) (addr n : Nat) :
    (s.memRead addr n).2.trace = .read addr n (s.memRead addr n).1 :: s.trace := by
  rw [State.memRead_snd_eq]

/-- A write changes the device's registers, the transport's answers, the number of the next free value and the trace
alone. -/
theorem State.memWrite_snd_eq (s : State) (addr : Nat) (bs : List Byte) :
    (s.memWrite addr bs).2 = { s with
      dev := (s.memWrite addr bs).2.dev, answers := s.answers.tail, draws := (s.memWrite addr bs).2.draws,
      trace := .write addr bs s.transportAnswer :: s.trace } := by
  unfold State.memWrite State.afterAnswer
  cases s.transportAnswer <;> cases h : s.answers <;> simp [State.log, State.spend, State.setDev, h]

@[simp] theorem State.memWrite_outbox (s : State) (addr : Nat) (bs : List Byte) :
    (s.memWrite addr bs).2.outbox = s.outbox := by
  rw [State.memWrite_snd_eq]
@[simp] theorem State.memWrite_params (s : State) (addr : Nat) (bs : List Byte) :
    (s.memWrite addr bs).2.params = s.params := by
  rw [State.memWrite_snd_eq]
@[simp] theorem State.memWrite_trace (s : State) (addr : Nat) (bs : List Byte) :
    (s.memWrite addr bs).2.trace = .write addr bs s.transportAnswer :: s.trace := by
  rw [State.memWrite_snd_eq]

/-- A read that delivers bytes delivers as many as were asked for (R23). -/
theorem State.length_of_memRead_eq_some {s : State} {addr n : Nat} {bs : List Byte}
    (h : (s.memRead addr n).1 = some bs) : bs.length = n := by
  cases ha : s.transportAnswer
  · simp [State.memRead_of_failure addr n ha] at h
  · rw [State.memRead_of_success addr n ha] at h
    cases h
    exact Memory.deliver_length ..

/-- A write changes no register outside its run, whether it succeeds or fails (R24, R27). -/
theorem State.read_memWrite_outside (s : State) {addr a : Nat} {bs : List Byte}
    (h : a < addr ∨ addr + bs.length ≤ a) : (s.memWrite addr bs).2.dev.read a = s.dev.read a := by
  cases ha : s.transportAnswer
  · simp [State.memWrite_of_failure addr bs ha, Memory.read_forgetRun_outside _ _ h]
  · simp [State.memWrite_of_success addr bs ha, Memory.read_writeRun_outside _ _ h]

/-- Settles O27: a successful transaction is `Memory.writeRun` or `Memory.deliver` on the device's registers. -/
theorem transactionsMoveElementToRegister : Obligations.TransactionsMoveElementToRegister := by
  intro s addr h
  refine ⟨fun bs => ⟨by simp [h], fun k hk => ?_, fun a ha => s.read_memWrite_outside ha⟩, fun n => ?_⟩
  · rw [State.memWrite_of_success addr bs h]
    exact Memory.read_writeRun_inside bs s.dev hk
  · rw [State.memRead_of_success addr n h]
    refine ⟨_, rfl, Memory.deliver_length .., fun k b hk hb => ?_⟩
    rw [Memory.getElem?_deliver s.dev hk, hb, Option.getD_some]

/-- Settles O28: a failed write is `Memory.forgetRun` on the device's registers, a failed read delivers nothing. -/
theorem failedTransactionEffects : Obligations.FailedTransactionEffects := by
  intro s addr h
  refine ⟨fun bs => ⟨by simp [h], fun a h1 h2 => ?_, fun a ha => s.read_memWrite_outside ha⟩,
    fun n => ⟨by rw [State.memRead_of_failure addr n h], s.memRead_dev addr n⟩⟩
  rw [State.memWrite_of_failure addr bs h]
  exact Memory.read_forgetRun_inside bs.length s.dev h1 h2

end Sys2Proof.Machine
end

section
/-! The device's own changes (20_memory.md R29). -/

namespace Sys2Proof.Machine

theorem Memory.read_applyChanges_of_notMem {cs : List Host.Cell} {m : Memory} {a : Nat}
    (h : a ∉ cs.map Prod.fst) : (m.applyChanges cs).read a = m.read a := by
  induction cs generalizing m with
  | nil => rfl
  | cons c cs ih =>
    obtain ⟨b, w⟩ := c
    simp only [List.map_cons, List.mem_cons, not_or] at h
    rw [Memory.applyChanges, ih h.2]
    split
    · exact Memory.read_write_other m w h.1
    · rfl

/-- Changes of distinct registers all take effect. -/
theorem Memory.read_applyChanges_of_mem {cs : List Host.Cell} {m : Memory} {a : Nat} {v : Byte}
    (hnodup : (cs.map Prod.fst).Nodup) (hmem : (a, v) ∈ cs) (ha : a ≤ lastRegister) :
    (m.applyChanges cs).read a = some v := by
  induction cs generalizing m with
  | nil => cases hmem
  | cons c cs ih =>
    obtain ⟨hhead, htail⟩ := List.nodup_cons.mp hnodup
    rcases List.mem_cons.mp hmem with rfl | hmem
    · rw [Memory.applyChanges, if_pos ha, Memory.read_applyChanges_of_notMem hhead, Memory.read_write_same]
    · exact ih htail hmem

/-- The changes that give each time register the byte `v` has for its field (R21). -/
def timeChanges (v : RecField → Byte) : List Host.Cell := RecField.all.map fun f => (f.index, v f)

theorem map_fst_timeChanges (v : RecField → Byte) : (timeChanges v).map Prod.fst = List.range 8 := rfl

theorem mem_timeChanges (v : RecField → Byte) (f : RecField) : (f.index, v f) ∈ timeChanges v :=
  List.mem_map_of_mem (RecField.mem_all f)

theorem RecField.index_le_lastRegister (f : RecField) : f.index ≤ lastRegister :=
  Nat.le_trans (Nat.le_of_lt f.index_lt) (by decide)

/-- Settles O33: the stated changes `timeChanges v` reach the eight time registers; with none stated nothing is listed. -/
theorem deviceMayChangeByItself : Obligations.DeviceMayChangeByItself := by
  intro s v rest
  refine ⟨⟨timeChanges v, fun f => ?_⟩, fun a => rfl⟩
  have hnodup : ((timeChanges v).map Prod.fst).Nodup := map_fst_timeChanges v ▸ List.nodup_range
  exact Memory.read_applyChanges_of_mem hnodup (mem_timeChanges v f) f.index_le_lastRegister

end Sys2Proof.Machine
end

section
/-! The plan of each command (10_state.md R19, 20_memory.md R31): whether it asks for a transaction, which one, and how it
then ends. -/

namespace Sys2Proof.Machine

open Sys2Proof.Safety

theorem operandInRange_iff_valid (d : DateTime) (f : RecField) : operandInRange d f = true ↔ Valid d f := by
  rw [operandInRange_iff]
  cases f <;> simp [storedRange, operandBase, fieldOperand, yearBase, Valid]

theorem encodeRecord_fst_iff_allValid (d : DateTime) (r : Record) : (encodeRecord d r).1 = true ↔ AllValid d := by
  simp [encodeRecord, encodeFields_fst, operandInRange_iff_valid, AllValid]

/-- TOBCD ends at once with OK and one byte, in and out of its domain. -/
theorem tobcdPlan_eq_answer (d : Byte) (free : Nat) (r : Record) : ∃ b n,
    tobcdPlan d free r = .answer { record := r, response := { status := .ok, data := [b] }, drawn := n } := by
  unfold tobcdPlan
  split
  · exact ⟨_, _, rfl⟩
  · exact ⟨_, _, rfl⟩

/-- FROMBCD ends at once with OK and one byte, in and out of its domain. -/
theorem frombcdPlan_eq_answer (b : Byte) (free : Nat) (r : Record) : ∃ v n,
    frombcdPlan b free r = .answer { record := r, response := { status := .ok, data := [v] }, drawn := n } := by
  unfold frombcdPlan
  split
  · exact ⟨_, _, rfl⟩
  · exact ⟨_, _, rfl⟩

theorem setcmpPlan_of_le {field : Byte} (p : Params) (value : Byte) (r : Record) (h : field.toNat ≤ 7) :
    ∃ f, setcmpPlan p field value r = .read 0x00 8 (setcmpReply p f value) := by
  cases hf : fieldOfIndex field.toNat with
  | none => exact absurd (fieldOfIndex_eq_none.mp hf) (by omega)
  | some f => exact ⟨f, by simp [setcmpPlan, hf]⟩

theorem setcmpPlan_of_lt {field : Byte} (p : Params) (value : Byte) (r : Record) (h : 7 < field.toNat) :
    setcmpPlan p field value r = .answer { record := r, response := illegalResponse, drawn := 0 } := by
  simp [setcmpPlan, fieldOfIndex_eq_none.mpr h]

theorem setalmPlan_of_allValid {d : DateTime} (p : Params) (r : Record) (h : AllValid d) :
    setalmPlan p d r = .write 0x08 (alarmBytes p.alarmPayload (encodeRecord d r).2) fun success =>
      { record := (encodeRecord d r).2, response := reportOf success, drawn := 0 } := by
  simp [setalmPlan, (encodeRecord_fst_iff_allValid d r).mpr h]

theorem setalmPlan_of_not_allValid {d : DateTime} (p : Params) (r : Record) (h : ¬ AllValid d) :
    setalmPlan p d r = .answer { record := (encodeRecord d r).2, response := reportOf false, drawn := 0 } := by
  have hfst : (encodeRecord d r).1 = false := Bool.eq_false_iff.mpr (mt (encodeRecord_fst_iff_allValid d r).mp h)
  simp [setalmPlan, hfst]

@[simp] theorem Record.sentBytes_length (r : Record) (k : Nat) : (r.sentBytes k).length = 8 := rfl

@[simp] theorem alarmBytes_length (p : AlarmPayload) (r : Record) :
    (alarmBytes p r).length = if p = .all8 then 8 else 7 := by
  cases p <;> rfl

/-! Carrying a plan out. -/

@[simp] theorem State.carryOut_read_dev (s : State) (addr n : Nat) (onReply : Nat → Option (List Byte) → Ending) :
    (s.carryOut (.read addr n onReply)).dev = s.dev := by
  simp [State.carryOut]

@[simp] theorem State.carryOut_read_trace (s : State) (addr n : Nat) (onReply : Nat → Option (List Byte) → Ending) :
    (s.carryOut (.read addr n onReply)).trace = .read addr n (s.memRead addr n).1 :: s.trace := by
  simp [State.carryOut]

@[simp] theorem State.carryOut_write_trace (s : State) (addr : Nat) (bs : List Byte) (onReply : Bool → Ending) :
    (s.carryOut (.write addr bs onReply)).trace = .write addr bs s.transportAnswer :: s.trace := by
  simp [State.carryOut]

/-- Settles O30: each command's plan is known, and carrying a plan out adds its transaction, if it has one, to the
trace. -/
theorem transactionsOfEachCommand : Obligations.TransactionsOfEachCommand := by
  intro i s
  refine ⟨_, exec_eq_carryOut i s, ?_⟩
  cases i with
  | tobcd d =>
    obtain ⟨b, n, hplan⟩ := tobcdPlan_eq_answer d s.draws s.record
    simp [blockStep, hplan]
  | frombcd b =>
    obtain ⟨v, n, hplan⟩ := frombcdPlan_eq_answer b s.draws s.record
    simp [blockStep, hplan]
  | setdt d => simp [blockStep, setdtPlan]
  | setcmp field value =>
    refine ⟨fun h => ?_, fun h => ?_⟩
    · obtain ⟨f, hplan⟩ := setcmpPlan_of_le s.params value s.record h
      simp [blockStep, hplan]
    · simp [blockStep, setcmpPlan_of_lt s.params value s.record h]
  | sync => exact ⟨s.record.sentBytes s.draws, s.transportAnswer, rfl, s.carryOut_write_trace ..⟩
  | getdt => simp [blockStep, getdtPlan]
  | setalm d =>
    refine ⟨fun h => ?_, fun h => ?_⟩
    · refine ⟨alarmBytes s.params.alarmPayload (encodeRecord d s.record).2, s.transportAnswer, alarmBytes_length .., ?_⟩
      simp [blockStep, setalmPlan_of_allValid s.params s.record h]
    · simp [blockStep, setalmPlan_of_not_allValid s.params s.record h]

/-! The registers a plan writes. -/

/-- Register `a` is in the run of the plan's write, whether that succeeds or fails. -/
def Plan.Writes (a : Nat) : Plan → Prop
  | .answer _ => False
  | .read _ _ _ => False
  | .write addr bs _ => addr ≤ a ∧ a < addr + bs.length

theorem State.read_carryOut_of_not_writes (s : State) {p : Plan} {a : Nat} (h : ¬ p.Writes a) :
    (s.carryOut p).dev.read a = s.dev.read a := by
  cases p with
  | answer e => rfl
  | read addr n onReply => rw [State.carryOut_read_dev]
  | write addr bs onReply =>
    refine s.read_memWrite_outside ?_
    simp only [Plan.Writes] at h
    omega

/-- SYNC writes the eight time registers, SETALM the seven alarm registers and under `all8` the status register, and no
other command writes any (R17, R31, R32). -/
theorem writes_blockStep {p : Params} {i : Instr} {free : Nat} {r : Record} {a : Nat}
    (h : (blockStep p i free r).Writes a) :
    (i = .sync ∧ a < 8) ∨ ∃ d, i = .setalm d ∧ 8 ≤ a ∧ a < 8 + if p.alarmPayload = .all8 then 8 else 7 := by
  cases i with
  | tobcd d =>
    obtain ⟨b, n, hplan⟩ := tobcdPlan_eq_answer d free r
    simp [blockStep, hplan, Plan.Writes] at h
  | frombcd b =>
    obtain ⟨v, n, hplan⟩ := frombcdPlan_eq_answer b free r
    simp [blockStep, hplan, Plan.Writes] at h
  | setdt d => exact h.elim
  | setcmp field value =>
    by_cases hfield : field.toNat ≤ 7
    · obtain ⟨f, hplan⟩ := setcmpPlan_of_le p value r hfield
      simp [blockStep, hplan, Plan.Writes] at h
    · simp [blockStep, setcmpPlan_of_lt p value r (Nat.lt_of_not_le hfield), Plan.Writes] at h
  | sync =>
    simp only [blockStep, syncPlan, Plan.Writes, Record.sentBytes_length, timeBase_eq] at h
    exact .inl ⟨rfl, by omega⟩
  | getdt => exact h.elim
  | setalm d =>
    by_cases hd : AllValid d
    · simp only [blockStep, setalmPlan_of_allValid p r hd, Plan.Writes, alarmBytes_length] at h
      exact .inr ⟨d, rfl, h⟩
    · simp [blockStep, setalmPlan_of_not_allValid p r hd, Plan.Writes] at h

/-- Settles O32: a register above 0x0E is in the run of a command's write for 0x0F under `all8` alone. -/
theorem writesStayInTimeAndAlarmRegisters : Obligations.WritesStayInTimeAndAlarmRegisters := by
  intro i s
  refine ⟨_, exec_eq_carryOut i s, fun a ha hstatus => s.read_carryOut_of_not_writes fun hwrites => ?_⟩
  rcases writes_blockStep hwrites with ⟨-, hlt⟩ | ⟨d, rfl, -, hlt⟩
  · omega
  · split at hlt
    next hall8 =>
      rcases hstatus (by omega) with hne | hne
      · exact hne hall8
      · exact hne d rfl
    next => omega

end Sys2Proof.Machine
end

section
/-! The invariant (20_memory.md R20, R31; 30_encoding.md R52): each part of a step keeps it. -/

namespace Sys2Proof.Safety

open Sys2Proof.Machine

/-! The responses the commands end with. -/

theorem legalResponse_reportOf (success : Bool) : LegalResponse (reportOf success) := by
  cases success <;> simp [LegalResponse, reportOf, statusOf]

theorem legalResponse_illegalResponse : LegalResponse illegalResponse := rfl

theorem legalResponse_ok_one (b : Byte) : LegalResponse { status := .ok, data := [b] } := .inr (.inl rfl)

theorem setcmpReply_response_eq_reportOf (p : Params) (f : RecField) (value : Byte) (free : Nat)
    (reply : Option (List Byte)) : ∃ success, (setcmpReply p f value free reply).response = reportOf success := by
  cases reply with
  | none => exact ⟨false, rfl⟩
  | some bs =>
    simp only [setcmpReply, setcmpStore]
    split
    · exact ⟨false, rfl⟩
    · split
      · exact ⟨true, rfl⟩
      · exact ⟨true, rfl⟩

theorem legalResponse_getdtReply (free : Nat) (reply : Option (List Byte)) :
    LegalResponse (getdtReply free reply).response := by
  cases reply with
  | none => exact .inr rfl
  | some bs =>
    simp only [getdtReply, getdtRender]
    split
    · exact .inr (.inr rfl)
    · exact .inr (.inr rfl)

/-! Plans of a legal shape. -/

/-- The plan's transaction, if it asks for one, has one of the block's shapes under the payload `p`, and every end it may
come to gives one of R52's responses. -/
def LegalPlan (p : AlarmPayload) : Plan → Prop
  | .answer e => LegalResponse e.response
  | .read addr n onReply => addr = 0x00 ∧ n = 8 ∧ ∀ free reply, LegalResponse (onReply free reply).response
  | .write addr bs onReply =>
    (∀ success, LegalTransaction p (.write addr bs success)) ∧ ∀ success, LegalResponse (onReply success).response

/-- The plan of every command is legal, an illegal SETCMP and an undetermined SYNC among them. -/
theorem legalPlan_blockStep (p : Params) (i : Instr) (free : Nat) (r : Record) :
    LegalPlan p.alarmPayload (blockStep p i free r) := by
  cases i with
  | tobcd d =>
    obtain ⟨b, n, hplan⟩ := tobcdPlan_eq_answer d free r
    simp only [blockStep, hplan]
    exact legalResponse_ok_one b
  | frombcd b =>
    obtain ⟨v, n, hplan⟩ := frombcdPlan_eq_answer b free r
    simp only [blockStep, hplan]
    exact legalResponse_ok_one v
  | setdt d => exact legalResponse_reportOf _
  | setcmp field value =>
    by_cases hfield : field.toNat ≤ 7
    · obtain ⟨f, hplan⟩ := setcmpPlan_of_le p value r hfield
      simp only [blockStep, hplan]
      refine ⟨rfl, rfl, fun k reply => ?_⟩
      obtain ⟨success, hresponse⟩ := setcmpReply_response_eq_reportOf p f value k reply
      exact hresponse ▸ legalResponse_reportOf success
    · simp only [blockStep, setcmpPlan_of_lt p value r (Nat.lt_of_not_le hfield)]
      exact legalResponse_illegalResponse
  | sync => exact ⟨fun _ => .inl ⟨rfl, rfl⟩, legalResponse_reportOf⟩
  | getdt => exact ⟨rfl, rfl, legalResponse_getdtReply⟩
  | setalm d =>
    by_cases hd : AllValid d
    · simp only [blockStep, setalmPlan_of_allValid p r hd]
      exact ⟨fun _ => .inr ⟨rfl, alarmBytes_length ..⟩, legalResponse_reportOf⟩
    · simp only [blockStep, setalmPlan_of_not_allValid p r hd]
      exact legalResponse_reportOf false

/-- A write of a legal shape ends inside the register space. -/
theorem LegalTransaction.write_fits {p : AlarmPayload} {addr : Nat} {bs : List Byte} {success : Bool}
    (h : LegalTransaction p (.write addr bs success)) : addr + bs.length ≤ lastRegister + 1 := by
  have hlast : lastRegister = 0x30 := rfl
  rcases h with ⟨haddr, hlen⟩ | ⟨haddr, hlen⟩
  · omega
  · split at hlen <;> omega

/-! What keeps the invariant. -/

theorem Inv.deviceMoves {s : State} (h : Inv s) : Inv s.deviceMoves where
  dev := State.wf_deviceMoves h.dev
  trace := by simpa using h.trace
  outbox := by simpa using h.outbox

theorem Inv.setInbox {s : State} (rest : List Byte) (h : Inv s) : Inv (s.setInbox rest) :=
  ⟨h.dev, h.trace, h.outbox⟩

theorem Inv.respondIllegal {s : State} (h : Inv s) : Inv s.respondIllegal :=
  ⟨h.dev, h.trace, List.forall_mem_cons.mpr ⟨legalResponse_illegalResponse, h.outbox⟩⟩

theorem Inv.finish {s : State} {e : Ending} (h : Inv s) (he : LegalResponse e.response) : Inv (s.finish e) :=
  ⟨h.dev, h.trace, List.forall_mem_cons.mpr ⟨he, h.outbox⟩⟩

theorem Inv.memRead {s : State} (h : Inv s) : Inv (s.memRead 0x00 8).2 where
  dev := State.wf_memRead 0x00 8 h.dev
  trace := by
    simp only [State.memRead_trace, State.memRead_params]
    exact List.forall_mem_cons.mpr ⟨⟨rfl, rfl, fun _ => State.length_of_memRead_eq_some⟩, h.trace⟩
  outbox := by simpa using h.outbox

theorem Inv.memWrite {s : State} {addr : Nat} {bs : List Byte} (h : Inv s)
    (ht : LegalTransaction s.params.alarmPayload (.write addr bs s.transportAnswer)) :
    Inv (s.memWrite addr bs).2 where
  dev := State.wf_memWrite h.dev ht.write_fits
  trace := by
    simp only [State.memWrite_trace, State.memWrite_params]
    exact List.forall_mem_cons.mpr ⟨ht, h.trace⟩
  outbox := by simpa using h.outbox

theorem Inv.carryOut {s : State} {p : Plan} (h : Inv s) (hp : LegalPlan s.params.alarmPayload p) :
    Inv (s.carryOut p) := by
  cases p with
  | answer e => exact h.finish hp
  | read addr n onReply =>
    obtain ⟨rfl, rfl, hreply⟩ := hp
    exact h.memRead.finish (hreply ..)
  | write addr bs onReply =>
    obtain ⟨htransaction, hreply⟩ := hp
    exact (h.memWrite (htransaction _)).finish (hreply _)

theorem Inv.exec {i : Instr} {s t : State} (h : Inv s) (hexec : exec i s = .next t) : Inv t := by
  rw [exec_eq_carryOut] at hexec
  cases hexec
  exact h.carryOut (legalPlan_blockStep ..)

/-- Settles O40: the device moves, and then the step runs a command, refuses a frame, or waits; each keeps the
invariant. -/
theorem everyStepKeepsInvariant : Obligations.EveryStepKeepsInvariant := by
  intro s t hinv hstep
  have hmoved := hinv.deviceMoves
  simp only [step] at hstep
  split at hstep
  case h_1 i rest _ => exact (hmoved.setInbox rest).exec hstep
  case h_2 rest _ => cases hstep; exact (hmoved.setInbox rest).respondIllegal
  case h_3 rest _ => cases hstep; exact (hmoved.setInbox rest).respondIllegal
  case h_4 => cases hstep; exact hmoved

end Sys2Proof.Safety
end

section
/-! The operand bytes of a frame (30_encoding.md R49 to R51, R54): each part of the decoder, characterised by the bytes
it accepts. -/

namespace Sys2Proof

/-- The decoder's 16-bit number from two bytes is their concatenation, high byte first (R50). -/
theorem ofNat_bytes_eq_append (hi lo : Byte) : BitVec.ofNat 16 (256 * hi.toNat + lo.toNat) = hi ++ lo := by
  apply BitVec.eq_of_toNat_eq
  rw [BitVec.toNat_append, ← Nat.shiftLeft_add_eq_or_of_lt lo.isLt, Nat.shiftLeft_eq, BitVec.toNat_ofNat]
  omega

/-- The year's two frame bytes are its bits 15 to 8 and 7 to 0 (R50). -/
theorem encodeDateTime_eq_extractLsb' (dt : DateTime) :
    encodeDateTime dt = [dt.year.extractLsb' 8 8, dt.year.extractLsb' 0 8, dt.month, dt.day, dt.dow, dt.hour, dt.minute,
      dt.second, dt.hundredth] := by
  have hhigh : BitVec.ofNat 8 (dt.year.toNat / 256) = dt.year.extractLsb' 8 8 := by
    simp [BitVec.extractLsb', Nat.shiftRight_eq_div_pow]
  have hlow : BitVec.ofNat 8 dt.year.toNat = dt.year.extractLsb' 0 8 := by
    simp [BitVec.extractLsb']
  rw [encodeDateTime, hhigh, hlow]

theorem decodeDateTime_eq_some_iff {bs rest : List Byte} {dt : DateTime} :
    decodeDateTime bs = some (dt, rest) ↔ bs = encodeDateTime dt ++ rest := by
  rw [encodeDateTime_eq_extractLsb']
  constructor
  · intro h
    unfold decodeDateTime at h
    split at h
    next yh yl _ _ _ _ _ _ _ _ =>
      cases h
      simp only [ofNat_bytes_eq_append, BitVec.extractLsb'_append_eq_left, BitVec.extractLsb'_append_eq_right]
      rfl
    next => cases h
  · rintro rfl
    have hyear : dt.year.extractLsb' 8 8 ++ dt.year.extractLsb' 0 8 = dt.year := BitVec.extractLsb'_append_extractLsb'
    simp only [List.cons_append, List.nil_append, decodeDateTime, ofNat_bytes_eq_append, hyear]

theorem decodeByte_eq_command_iff {mk : Byte → Instr} {i : Instr} {bs rest : List Byte} :
    decodeByte mk bs = .command i rest ↔ ∃ b, i = mk b ∧ bs = b :: rest := by
  cases bs with
  | nil => simp [decodeByte]
  | cons b bs => simp [decodeByte, eq_comm]

theorem decodeFields_eq_command_iff {mk : DateTime → Instr} {i : Instr} {bs rest : List Byte} :
    decodeFields mk bs = .command i rest ↔ ∃ dt, i = mk dt ∧ bs = encodeDateTime dt ++ rest := by
  simp only [← decodeDateTime_eq_some_iff, decodeFields]
  cases decodeDateTime bs with
  | none => simp
  | some p => simp [Prod.ext_iff, eq_comm]

theorem decodeComponent_of_le {field : Byte} (value : Byte) (rest : List Byte) (h : field.toNat ≤ 7) :
    decodeComponent (field :: value :: rest) = .command (.setcmp field value) rest := if_pos h

theorem decodeComponent_of_lt {field : Byte} (value : Byte) (rest : List Byte) (h : 7 < field.toNat) :
    decodeComponent (field :: value :: rest) = .illegalField field rest := if_neg (Nat.not_le_of_lt h)

theorem decodeComponent_eq_command_iff {i : Instr} {bs rest : List Byte} :
    decodeComponent bs = .command i rest ↔
      ∃ field value, i = .setcmp field value ∧ field.toNat ≤ 7 ∧ bs = field :: value :: rest := by
  constructor
  · intro h
    unfold decodeComponent at h
    split at h
    next field value _ =>
      split at h
      next hfield => cases h; exact ⟨field, value, rfl, hfield, rfl⟩
      next => cases h
    next => cases h
  · rintro ⟨field, value, rfl, hfield, rfl⟩
    exact decodeComponent_of_le value rest hfield

/-! The operands alone are never an illegal opcode: byte 0 decides that (R54). -/

theorem decodeByte_ne_illegalOpcode {mk : Byte → Instr} {bs rest : List Byte} {op : Byte} :
    decodeByte mk bs ≠ .illegalOpcode op rest := by
  cases bs <;> simp [decodeByte]

theorem decodeFields_ne_illegalOpcode {mk : DateTime → Instr} {bs rest : List Byte} {op : Byte} :
    decodeFields mk bs ≠ .illegalOpcode op rest := by
  unfold decodeFields
  split <;> simp

theorem decodeComponent_ne_illegalOpcode {bs rest : List Byte} {op : Byte} :
    decodeComponent bs ≠ .illegalOpcode op rest := by
  unfold decodeComponent
  split
  · split <;> simp
  · simp

end Sys2Proof
end

section
/-! Byte 0 of a frame (30_encoding.md R48, R49, R54), and the decoder as the inverse of the encoder. -/

namespace Sys2Proof

/-- The opcode bytes of the seven commands, in the table's order (R49). -/
def legalOpcodes : List Byte := [0x01, 0x02, 0x10, 0x11, 0x12, 0x13, 0x20]

theorem mem_legalOpcodes_iff {op : Byte} : op ∈ legalOpcodes ↔
    op = 0x01 ∨ op = 0x02 ∨ op = 0x10 ∨ op = 0x11 ∨ op = 0x12 ∨ op = 0x13 ∨ op = 0x20 := by
  simp [legalOpcodes]

theorem toNat_ne_of_notMem_legalOpcodes {op : Byte} (h : op ∉ legalOpcodes) :
    op.toNat ≠ 0x01 ∧ op.toNat ≠ 0x02 ∧ op.toNat ≠ 0x10 ∧ op.toNat ≠ 0x11 ∧ op.toNat ≠ 0x12 ∧ op.toNat ≠ 0x13 ∧
      op.toNat ≠ 0x20 := by
  simpa [mem_legalOpcodes_iff, ← BitVec.toNat_inj] using h

theorem decode_of_notMem_legalOpcodes {op : Byte} (bs : List Byte) (h : op ∉ legalOpcodes) :
    decode (op :: bs) = .illegalOpcode op bs := by
  have hne := toNat_ne_of_notMem_legalOpcodes h
  simp only [decode]
  split
  case h_8 => rfl
  all_goals omega

theorem decode_eq_illegalOpcode_iff (op : Byte) (bs : List Byte) :
    decode (op :: bs) = .illegalOpcode op bs ↔ op ∉ legalOpcodes := by
  refine ⟨fun h hop => ?_, decode_of_notMem_legalOpcodes bs⟩
  rcases mem_legalOpcodes_iff.mp hop with rfl | rfl | rfl | rfl | rfl | rfl | rfl
  · exact decodeByte_ne_illegalOpcode h
  · exact decodeByte_ne_illegalOpcode h
  · exact decodeFields_ne_illegalOpcode h
  · exact decodeComponent_ne_illegalOpcode h
  · cases h
  · cases h
  · exact decodeFields_ne_illegalOpcode h

theorem Instr.wellFormed_iff {i : Instr} :
    i.wellFormed = true ↔ ∀ field value, i = .setcmp field value → field.toNat ≤ 7 := by
  cases i <;> simp [Instr.wellFormed]

/-- The decoder reads an instruction from some bytes exactly when it is well-formed and its frame is at their head. -/
theorem decode_eq_command_iff {i : Instr} {bs rest : List Byte} :
    decode bs = .command i rest ↔ i.wellFormed = true ∧ bs = encode i ++ rest := by
  constructor
  · intro h
    cases bs with
    | nil => cases h
    | cons op bs =>
      by_cases hop : op ∈ legalOpcodes
      · rcases mem_legalOpcodes_iff.mp hop with rfl | rfl | rfl | rfl | rfl | rfl | rfl
        · obtain ⟨d, rfl, rfl⟩ := decodeByte_eq_command_iff.mp h
          exact ⟨rfl, rfl⟩
        · obtain ⟨b, rfl, rfl⟩ := decodeByte_eq_command_iff.mp h
          exact ⟨rfl, rfl⟩
        · obtain ⟨dt, rfl, rfl⟩ := decodeFields_eq_command_iff.mp h
          exact ⟨rfl, rfl⟩
        · obtain ⟨field, value, rfl, hfield, rfl⟩ := decodeComponent_eq_command_iff.mp h
          exact ⟨decide_eq_true hfield, rfl⟩
        · cases h; exact ⟨rfl, rfl⟩
        · cases h; exact ⟨rfl, rfl⟩
        · obtain ⟨dt, rfl, rfl⟩ := decodeFields_eq_command_iff.mp h
          exact ⟨rfl, rfl⟩
      · rw [decode_of_notMem_legalOpcodes bs hop] at h
        cases h
  · rintro ⟨hwf, rfl⟩
    cases i with
    | tobcd d => rfl
    | frombcd b => rfl
    | setdt dt => exact decodeFields_eq_command_iff.mpr ⟨dt, rfl, rfl⟩
    | setcmp field value => exact decodeComponent_of_le value rest (of_decide_eq_true hwf)
    | sync => rfl
    | getdt => rfl
    | setalm dt => exact decodeFields_eq_command_iff.mpr ⟨dt, rfl, rfl⟩

/-- Settles O45: a well-formed instruction's frame is accepted by the decoder's characterisation. -/
theorem decodeOfEncode : Obligations.DecodeOfEncode :=
  fun _ _ hwf => decode_eq_command_iff.mpr ⟨hwf, rfl⟩

/-- Settles O46: the decoder's characterisation, read forwards. -/
theorem encodeOfDecode : Obligations.EncodeOfDecode :=
  fun _ _ _ => decode_eq_command_iff.mp

/-! The table's lengths. -/

theorem frameLength_of_notMem_legalOpcodes {op : Byte} (h : op ∉ legalOpcodes) : frameLength op = none := by
  have hne := toNat_ne_of_notMem_legalOpcodes h
  unfold frameLength
  split
  case h_8 => rfl
  all_goals omega

theorem frameLength_eq_none_iff {op : Byte} : frameLength op = none ↔ op ∉ legalOpcodes := by
  refine ⟨fun h hop => ?_, frameLength_of_notMem_legalOpcodes⟩
  rcases mem_legalOpcodes_iff.mp hop with rfl | rfl | rfl | rfl | rfl | rfl | rfl <;> cases h

/-- R49's table of frame lengths, by opcode byte. -/
theorem frameLength_eq_ite (op : Byte) : frameLength op =
    if op = 0x01 ∨ op = 0x02 then some 2 else if op = 0x10 ∨ op = 0x20 then some 10
    else if op = 0x11 then some 3 else if op = 0x12 ∨ op = 0x13 then some 1 else none := by
  by_cases hop : op ∈ legalOpcodes
  · rcases mem_legalOpcodes_iff.mp hop with rfl | rfl | rfl | rfl | rfl | rfl | rfl <;> rfl
  · rw [frameLength_of_notMem_legalOpcodes hop]
    simp only [mem_legalOpcodes_iff, not_or] at hop
    simp only [hop, or_self, if_false]

/-- Settles O44: the frames are `encode`'s, with the year's two bytes as bits, and an opcode byte has no length exactly
when it is not one of the seven. -/
theorem opcodesAndLengthsOfTheTable : Obligations.OpcodesAndLengthsOfTheTable := by
  refine ⟨fun d => rfl, fun b => rfl, fun d => ?_, fun field value => rfl, rfl, rfl, fun d => ?_, frameLength_eq_ite,
    fun op bs => ?_⟩
  · exact congrArg (List.cons 0x10) (encodeDateTime_eq_extractLsb' d)
  · exact congrArg (List.cons 0x20) (encodeDateTime_eq_extractLsb' d)
  · rw [decode_eq_illegalOpcode_iff, frameLength_eq_none_iff]

end Sys2Proof
end

section
/-! A step on the frame at the head of the command port (30_encoding.md R48, R54). -/

namespace Sys2Proof.Machine

open Sys2Proof.Safety

theorem step_of_command {s : State} {i : Instr} {rest : List Byte} (h : decode s.inbox = .command i rest) :
    step s = exec i (s.deviceMoves.setInbox rest) := by
  simp [step, h]

theorem step_of_illegalOpcode {s : State} {op : Byte} {rest : List Byte}
    (h : decode s.inbox = .illegalOpcode op rest) : step s = .next (s.deviceMoves.setInbox rest).respondIllegal := by
  simp [step, h]

theorem step_of_illegalField {s : State} {field : Byte} {rest : List Byte}
    (h : decode s.inbox = .illegalField field rest) : step s = .next (s.deviceMoves.setInbox rest).respondIllegal := by
  simp [step, h]

/-- The answer ILLEGAL to a frame taken after the device has moved changes the two ports alone. -/
theorem respondIllegal_setInbox_deviceMoves (s : State) (rest : List Byte) :
    (s.deviceMoves.setInbox rest).respondIllegal = { s.deviceMoves with
      inbox := rest, outbox := { status := .illegal, data := [] } :: s.outbox } := by
  rw [← State.deviceMoves_outbox s]
  rfl

/-- Settles O41: the case of a decoded command in `step`. -/
theorem stepRunsDecodedInstruction : Obligations.StepRunsDecodedInstruction :=
  fun _ _ _ => step_of_command

/-- Settles O42: the decoder finds an illegal opcode, an illegal field or the command in the three cases, and a step
does with each what R54 says. -/
theorem illegalFramesAnswerIllegal : Obligations.IllegalFramesAnswerIllegal := by
  intro s rest
  refine ⟨fun op hinbox hop => ?_, fun field value hinbox hfield => ?_, fun i hfield hinbox => ?_⟩
  · have hdecode : decode s.inbox = .illegalOpcode op rest := hinbox ▸ decode_of_notMem_legalOpcodes rest hop
    rw [step_of_illegalOpcode hdecode, respondIllegal_setInbox_deviceMoves]
  · have hdecode : decode s.inbox = .illegalField field rest := hinbox ▸ decodeComponent_of_lt value rest hfield
    rw [step_of_illegalField hdecode, respondIllegal_setInbox_deviceMoves]
  · exact step_of_command (decode_eq_command_iff.mpr ⟨Instr.wellFormed_iff.mpr hfield, hinbox⟩)

/-- Settles O14: the plan of an illegal SETCMP ends at once on the record as it was. -/
theorem setcmpIllegalFieldDoesNothing : Obligations.SetcmpIllegalFieldDoesNothing := by
  intro field value s hfield
  rw [exec_eq_carryOut, blockStep, setcmpPlan_of_lt s.params value s.record hfield]
  rfl

/-- Settles O25: one SETALM ends at once, the other on a failed write; both report the boolean `false` (R53). -/
theorem failCarriesNoCause : Obligations.FailCarriesNoCause := by
  intro d e s hd he hanswer
  refine ⟨_, _, exec_eq_carryOut (.setalm d) s, exec_eq_carryOut (.setalm e) s, ?_⟩
  rw [blockStep, blockStep, setalmPlan_of_not_allValid s.params s.record hd, setalmPlan_of_allValid s.params s.record he,
    State.carryOut_answer, State.carryOut_write_of_failure _ _ _ hanswer]
  simp [reportOf, statusOf]

end Sys2Proof.Machine
end

section
/-! The BCD codec on its two domains (40_bcd_codec.md R60 to R63): digits and nibbles as numbers, the two functions as
inverses of each other, and the commands' answers. -/

namespace Sys2Proof.Machine

open Sys2Proof.Safety

/-! The nibbles of a byte. -/

theorem highNibble_eq_div (b : Byte) : highNibble b = b.toNat / 16 := by
  have hdiv : b.toNat / 16 < 16 := by omega
  simpa [highNibble, BitVec.extractLsb'_toNat, Nat.shiftRight_eq_div_pow] using hdiv

theorem lowNibble_eq_mod (b : Byte) : lowNibble b = b.toNat % 16 := by
  simp [lowNibble, BitVec.extractLsb'_toNat]

theorem isBcd_iff_bcdByte (b : Byte) : isBcd b = true ↔ BcdByte b := by
  simp [isBcd, BcdByte, highNibble_eq_div, lowNibble_eq_mod]

/-! The byte of a number up to 99. -/

/-- Neither digit exceeds 9, so the two nibbles never overlap and nothing is truncated (R60). -/
theorem toNat_toBcd {d : Nat} (h : d ≤ 99) : (toBcd d).toNat = 16 * (d / 10) + d % 10 := by
  have hones : d % 10 < 2 ^ 4 := by omega
  rw [toBcd, BitVec.toNat_ofNat, ← Nat.shiftLeft_add_eq_or_of_lt hones, Nat.shiftLeft_eq]
  omega

theorem highNibble_toBcd {d : Nat} (h : d ≤ 99) : highNibble (toBcd d) = d / 10 := by
  rw [highNibble_eq_div, toNat_toBcd h]
  omega

theorem lowNibble_toBcd {d : Nat} (h : d ≤ 99) : lowNibble (toBcd d) = d % 10 := by
  rw [lowNibble_eq_mod, toNat_toBcd h]
  omega

theorem bcdByte_toBcd {d : Nat} (h : d ≤ 99) : BcdByte (toBcd d) := by
  rw [BcdByte, toNat_toBcd h]
  omega

/-! The number of a BCD byte. -/

theorem fromBcd_eq (b : Byte) : fromBcd b = 10 * (b.toNat / 16) + b.toNat % 16 := by
  rw [fromBcd, highNibble_eq_div, lowNibble_eq_mod]

theorem fromBcd_le {b : Byte} (h : BcdByte b) : fromBcd b ≤ 99 := by
  obtain ⟨hhigh, hlow⟩ := h
  rw [fromBcd_eq]
  omega

/-- The data byte of FROMBCD holds the number itself: 99 fits 8 bits (R64). -/
theorem toNat_ofNat_fromBcd {b : Byte} (h : BcdByte b) : (BitVec.ofNat 8 (fromBcd b)).toNat = fromBcd b := by
  have hle := fromBcd_le h
  exact Nat.mod_eq_of_lt (by omega)

/-! Each function undoes the other (R63). -/

theorem fromBcd_toBcd {d : Nat} (h : d ≤ 99) : fromBcd (toBcd d) = d := by
  rw [fromBcd, highNibble_toBcd h, lowNibble_toBcd h]
  omega

/-- The number of a BCD byte has the byte's nibbles as its digits. -/
theorem toBcd_fromBcd {b : Byte} (h : BcdByte b) : toBcd (fromBcd b) = b := by
  apply BitVec.eq_of_toNat_eq
  rw [toNat_toBcd (fromBcd_le h), fromBcd_eq]
  obtain ⟨hhigh, hlow⟩ := h
  omega

/-! The commands inside their domains. -/

theorem exec_tobcd_of_le {d : Byte} (s : State) (h : d.toNat ≤ 99) :
    exec (.tobcd d) s = .next (s.respond { status := .ok, data := [toBcd d.toNat] }) := by
  rw [exec_eq_carryOut, blockStep, tobcdPlan, if_pos h]
  rfl

theorem exec_frombcd_of_bcdByte {b : Byte} (s : State) (h : BcdByte b) :
    exec (.frombcd b) s = .next (s.respond { status := .ok, data := [BitVec.ofNat 8 (fromBcd b)] }) := by
  rw [exec_eq_carryOut, blockStep, frombcdPlan, (isBcd_iff_bcdByte b).mpr h]
  rfl

/-- Settles O3: the answers of the two commands name no state. -/
theorem codecIsPure : Obligations.CodecIsPure := by
  rintro i (⟨d, rfl, hd⟩ | ⟨b, rfl, hb⟩)
  · exact ⟨toBcd d.toNat, fun s => exec_tobcd_of_le s hd⟩
  · exact ⟨BitVec.ofNat 8 (fromBcd b), fun s => exec_frombcd_of_bcdByte s hb⟩

/-- Settles O5: the number is FROMBCD's answer, and `toBcd` of it is the byte again. -/
theorem bcdByteRoundTrip : Obligations.BcdByteRoundTrip := by
  intro s b hb
  have hnat := toNat_ofNat_fromBcd hb
  have hle : (BitVec.ofNat 8 (fromBcd b)).toNat ≤ 99 := hnat.trans_le (fromBcd_le hb)
  have htobcd := exec_tobcd_of_le s hle
  rw [hnat, toBcd_fromBcd hb] at htobcd
  exact ⟨BitVec.ofNat 8 (fromBcd b), hle, exec_frombcd_of_bcdByte s hb, htobcd⟩

/-- Settles O4: the byte is TOBCD's answer, and `fromBcd` of it is the number again; that every BCD byte is reached is
the other round trip. -/
theorem codecRoundTrip : Obligations.CodecRoundTrip := by
  refine fun s => ⟨fun x hx => ?_, fun b hb => ?_⟩
  · have hbcd := bcdByte_toBcd hx
    have hfrombcd := exec_frombcd_of_bcdByte s hbcd
    rw [fromBcd_toBcd hx, BitVec.ofNat_toNat, BitVec.setWidth_eq] at hfrombcd
    exact ⟨toBcd x.toNat, hbcd, exec_tobcd_of_le s hx, hfrombcd⟩
  · obtain ⟨x, hx, -, htobcd⟩ := bcdByteRoundTrip s b hb
    exact ⟨x, hx, htobcd⟩

/-- Settles O1: the answer is `toBcd d`, whose nibbles are the digits of `d`. -/
theorem tobcdPacksTensAndOnes : Obligations.TobcdPacksTensAndOnes := fun d s hd =>
  ⟨toBcd d.toNat, exec_tobcd_of_le s hd, highNibble_toBcd hd, lowNibble_toBcd hd, rfl, toNat_toBcd hd, bcdByte_toBcd hd⟩

/-- Settles O2: the answer is the byte of `fromBcd b`, which fits 8 bits. -/
theorem frombcdUnpacksTensAndOnes : Obligations.FrombcdUnpacksTensAndOnes := fun b s hb =>
  ⟨BitVec.ofNat 8 (fromBcd b), exec_frombcd_of_bcdByte s hb, toNat_ofNat_fromBcd hb,
    (toNat_ofNat_fromBcd hb).trans_le (fromBcd_le hb)⟩

end Sys2Proof.Machine
end

section
/-! `Encode` against the spec's own order and ranges (41_datetime_model.md R70 to R72): which fields it stores, and the
byte each then holds. -/

namespace Sys2Proof.Machine

open Sys2Proof.Safety

/-! What a passing operand stores. -/

theorem storedValue_eq_stored (d : DateTime) (f : RecField) : storedValue d f = stored d f := by
  cases f <;> rfl

theorem stored_le_of_valid {d : DateTime} {f : RecField} (h : Valid d f) : stored d f ≤ 99 :=
  storedValue_eq_stored d f ▸ storedValue_le_of_inRange ((operandInRange_iff_valid d f).mpr h)

/-- The two digits side by side as nibbles are the number `16 * tens + ones` (R60). -/
theorem toBcd_eq_bcdByte {n : Nat} (h : n ≤ 99) : toBcd n = bcdByte n := by
  apply BitVec.eq_of_toNat_eq
  rw [toNat_toBcd h, bcdByte, BitVec.toNat_ofNat]
  omega

/-! Which fields are reached. -/

/-- In a list in the order of validation, the fields before the first that fails `p` are those up to which every field
of the list passes. -/
theorem mem_takeWhile_iff_of_rank_lt {p : RecField → Bool} {fs : List RecField} {f : RecField}
    (hfs : fs.Pairwise fun g g' => rank g < rank g') :
    f ∈ fs.takeWhile p ↔ f ∈ fs ∧ ∀ g ∈ fs, rank g ≤ rank f → p g = true := by
  induction fs with
  | nil => simp
  | cons a fs ih =>
    obtain ⟨ha, hfs⟩ := List.pairwise_cons.mp hfs
    by_cases hp : p a = true
    · rw [List.takeWhile_cons_of_pos hp, List.mem_cons, List.mem_cons, List.forall_mem_cons, ih hfs]
      constructor
      · rintro (rfl | ⟨hf, hpass⟩)
        · exact ⟨.inl rfl, fun _ => hp, fun g hg hle => absurd (ha g hg) (Nat.not_lt_of_le hle)⟩
        · exact ⟨.inr hf, fun _ => hp, hpass⟩
      · rintro ⟨hf, -, hpass⟩
        exact hf.imp_right fun hf => ⟨hf, hpass⟩
    · rw [List.takeWhile_cons_of_neg hp]
      refine ⟨fun h => absurd h List.not_mem_nil, fun ⟨hf, hpass⟩ => absurd (hpass a List.mem_cons_self ?_) hp⟩
      rcases List.mem_cons.mp hf with rfl | hf
      · exact Nat.le_refl _
      · exact Nat.le_of_lt (ha f hf)

theorem validationOrder_rank_lt : validationOrder.Pairwise fun f g => rank f < rank g := by decide

theorem mem_takeWhile_validationOrder_iff_reached (d : DateTime) (f : RecField) :
    f ∈ validationOrder.takeWhile (operandInRange d) ↔ Reached d f := by
  simp [mem_takeWhile_iff_of_rank_lt validationOrder_rank_lt, operandInRange_iff_valid, Reached]

theorem valid_of_reached {d : DateTime} {f : RecField} (h : Reached d f) : Valid d f := h f (Nat.le_refl _)

theorem reached_of_allValid {d : DateTime} (h : AllValid d) (f : RecField) : Reached d f := fun g _ => h g

/-! The record and the status `Encode` leaves. -/

theorem encodeRecord_get_of_reached {d : DateTime} {f : RecField} (r : Record) (h : Reached d f) :
    (encodeRecord d r).2.get f = .determined (bcdByte (stored d f)) := by
  rw [encodeRecord, encodeFields_get, if_pos ((mem_takeWhile_validationOrder_iff_reached d f).mpr h),
    storedValue_eq_stored, toBcd_eq_bcdByte (stored_le_of_valid (valid_of_reached h))]

theorem encodeRecord_get_of_not_reached {d : DateTime} {f : RecField} (r : Record) (h : ¬ Reached d f) :
    (encodeRecord d r).2.get f = r.get f := by
  rw [encodeRecord, encodeFields_get, if_neg (mt (mem_takeWhile_validationOrder_iff_reached d f).mp h)]

theorem encodeRecord_fst_of_not_allValid {d : DateTime} (r : Record) (h : ¬ AllValid d) :
    (encodeRecord d r).1 = false :=
  Bool.eq_false_iff.mpr (mt (encodeRecord_fst_iff_allValid d r).mp h)

theorem exec_setdt_eq (d : DateTime) (s : State) :
    exec (.setdt d) s = .next { s with
      record := (encodeRecord d s.record).2, outbox := reportOf (encodeRecord d s.record).1 :: s.outbox } := rfl

/-- Settles O7: SETDT is `Encode` on the record and its boolean as the response. -/
theorem setdtStoresUpToFirstFailure : Obligations.SetdtStoresUpToFirstFailure := by
  intro d s
  refine ⟨_, exec_setdt_eq d s, fun f => encodeRecord_get_of_reached s.record, fun hyear => ?_,
    fun f => encodeRecord_get_of_not_reached s.record, fun hvalid => ?_, fun hvalid => ?_, rfl⟩
  · rw [← storedValue_eq_stored]
    exact storedValue_year ((operandInRange_iff_valid d .year).mpr hyear)
  · rw [(encodeRecord_fst_iff_allValid d s.record).mpr hvalid]
    rfl
  · rw [encodeRecord_fst_of_not_allValid s.record hvalid]
    rfl

/-- Settles O8: the statuses and the stored bytes of O7; when all operands are in range, every field is reached. -/
theorem setdtValidatesEachFieldAlone : Obligations.SetdtValidatesEachFieldAlone := by
  intro d s
  obtain ⟨t, hexec, -, -, -, hok, hfail, -⟩ := setdtStoresUpToFirstFailure d s
  refine ⟨t, hexec, hok, fun f hf => hfail fun hvalid => hf (hvalid f), fun hvalid => ?_⟩
  obtain ⟨u, hexec', hstored, -, -, hok', -, hframe⟩ := setdtStoresUpToFirstFailure { d with month := 2, day := 31 } s
  have hrecord : u.record = Record.build fun f => .determined (bcdByte (stored { d with month := 2, day := 31 } f)) :=
    Record.ext_get fun f => by rw [Record.get_build, hstored f (reached_of_allValid hvalid f)]
  rw [hexec', hframe, hrecord, hok' hvalid]

/-- Settles O9: the stored bytes are those of O7, each of a number that passed its range check. -/
theorem encodeStaysInCodecDomain : Obligations.EncodeStaysInCodecDomain := by
  intro d s
  obtain ⟨t, hexec, hstored, -, -, -, -, hframe⟩ := setdtStoresUpToFirstFailure d s
  refine ⟨t, hexec, by rw [hframe], fun f hf => ?_⟩
  have hle := stored_le_of_valid (valid_of_reached hf)
  exact ⟨hle, _, hstored f hf, toBcd_eq_bcdByte hle ▸ bcdByte_toBcd hle⟩

end Sys2Proof.Machine
end

section
/-! A command's one transaction at the time registers (20_memory.md R21, R23, R24): what the transport delivers, and the
state the command leaves. -/

namespace Sys2Proof.Machine

open Sys2Proof.Safety

theorem State.sameElsewhere_carryOut (s : State) (p : Plan) : SameElsewhere s (s.carryOut p) := (s.carryOut_ports p).2

/-! Reads. -/

theorem State.memRead_fst_of_failure {s : State} (addr n : Nat) (h : s.transportAnswer = false) :
    (s.memRead addr n).1 = none := by
  rw [State.memRead_of_failure addr n h]

theorem State.exists_deliverable_of_success {s : State} (h : s.transportAnswer = true) :
    ∃ bs, (s.memRead 0x00 8).1 = some bs ∧ Deliverable s bs := by
  rw [State.memRead_of_success 0x00 8 h]
  refine ⟨_, rfl, Memory.deliver_length .., fun k b hk hb => ?_⟩
  rw [Memory.getElem?_deliver s.dev hk, Nat.zero_add, hb, Option.getD_some]

theorem State.draws_le_memRead (s : State) (addr n : Nat) : s.draws ≤ (s.memRead addr n).2.draws := by
  have hle := s.draws_le_afterAnswer
  cases h : s.transportAnswer
  · simpa [State.memRead_of_failure addr n h] using hle
  · simpa [State.memRead_of_success addr n h] using Nat.le_add_right_of_le hle

theorem State.carryOut_read_record (s : State) (addr n : Nat) (onReply : Nat → Option (List Byte) → Ending) :
    (s.carryOut (.read addr n onReply)).record =
      (onReply (s.memRead addr n).2.draws (s.memRead addr n).1).record := rfl

theorem State.carryOut_read_outbox (s : State) (addr n : Nat) (onReply : Nat → Option (List Byte) → Ending) :
    (s.carryOut (.read addr n onReply)).outbox =
      (onReply (s.memRead addr n).2.draws (s.memRead addr n).1).response :: s.outbox := by
  simp [State.carryOut]

theorem State.carryOut_read_draws (s : State) (addr n : Nat) (onReply : Nat → Option (List Byte) → Ending) :
    (s.carryOut (.read addr n onReply)).draws =
      (s.memRead addr n).2.draws + (onReply (s.memRead addr n).2.draws (s.memRead addr n).1).drawn := rfl

theorem State.carryOut_read_answers (s : State) (addr n : Nat) (onReply : Nat → Option (List Byte) → Ending) :
    (s.carryOut (.read addr n onReply)).answers = s.answers.tail := by
  rw [State.carryOut, State.finish_answers, State.memRead_snd_eq]

/-! Writes. -/

theorem State.carryOut_write_record (s : State) (addr : Nat) (bs : List Byte) (onReply : Bool → Ending) :
    (s.carryOut (.write addr bs onReply)).record = (onReply s.transportAnswer).record := by
  simp [State.carryOut]

theorem State.carryOut_write_outbox (s : State) (addr : Nat) (bs : List Byte) (onReply : Bool → Ending) :
    (s.carryOut (.write addr bs onReply)).outbox = (onReply s.transportAnswer).response :: s.outbox := by
  simp [State.carryOut]

theorem State.carryOut_write_draws (s : State) (addr : Nat) (bs : List Byte) (onReply : Bool → Ending) :
    (s.carryOut (.write addr bs onReply)).draws = s.afterAnswer.draws + (onReply s.transportAnswer).drawn := by
  cases h : s.transportAnswer
  · rw [State.carryOut_write_of_failure addr bs onReply h]; rfl
  · rw [State.carryOut_write_of_success addr bs onReply h]; rfl

theorem State.carryOut_write_answers (s : State) (addr : Nat) (bs : List Byte) (onReply : Bool → Ending) :
    (s.carryOut (.write addr bs onReply)).answers = s.answers.tail := by
  rw [State.carryOut, State.finish_answers, State.memWrite_snd_eq]

theorem State.read_carryOut_write_of_success {s : State} {addr k : Nat} {bs : List Byte} (onReply : Bool → Ending)
    (h : s.transportAnswer = true) (hk : k < bs.length) :
    (s.carryOut (.write addr bs onReply)).dev.read (addr + k) = bs[k]? := by
  rw [State.carryOut_write_of_success addr bs onReply h]
  exact Memory.read_writeRun_inside bs s.dev hk

theorem State.read_carryOut_write_of_failure {s : State} {addr a : Nat} {bs : List Byte} (onReply : Bool → Ending)
    (h : s.transportAnswer = false) (hlo : addr ≤ a) (hhi : a < addr + bs.length) :
    (s.carryOut (.write addr bs onReply)).dev.read a = none := by
  rw [State.carryOut_write_of_failure addr bs onReply h]
  exact Memory.read_forgetRun_inside bs.length s.dev hlo hhi

/-! The record after a read. -/

@[simp] theorem Record.get_unspecified_written (k : Nat) (f : RecField) :
    ((Record.unspecified k).get f).written = false := by
  rw [Record.unspecified, Record.get_build]

theorem holds_snapshot {bs : List Byte} (h : bs.length = 8) : Holds (Record.snapshot bs) bs := by
  intro f
  have hf : f.index < bs.length := h ▸ f.index_lt
  refine ⟨bs[f.index], List.getElem?_eq_getElem hf, ?_⟩
  rw [Record.snapshot, Record.get_build, List.getD_eq_getElem bs 0 hf]

end Sys2Proof.Machine
end

section
/-! SETCMP (41_datetime_model.md R73 to R75). -/

namespace Sys2Proof.Machine

open Sys2Proof.Safety

theorem componentInRange_iff_validComponent (f : RecField) (value : Byte) :
    componentInRange f value = true ↔ ValidComponent value.toNat f := by
  rw [componentInRange_iff]
  cases f <;> simp [storedRange, ValidComponent]

theorem validComponent_le {n : Nat} {f : RecField} (h : ValidComponent n f) : n ≤ 99 := by
  cases f <;> simp only [ValidComponent] at h <;> omega

/-! The store after the snapshot. -/

theorem setcmpStore_get_other (p : Params) {f g : RecField} (value : Byte) (free : Nat) (r : Record) (h : g ≠ f) :
    (setcmpStore p f value free r).record.get g = r.get g := by
  unfold setcmpStore
  split
  · rfl
  · split
    · exact Record.get_set_other r _ h
    · exact Record.get_set_other r _ h

theorem setcmpStore_of_refused {p : Params} {f : RecField} {value : Byte} (free : Nat) (r : Record)
    (hp : p.setcmpValidates = true) (h : ¬ ValidComponent value.toNat f) :
    setcmpStore p f value free r = { record := r, response := reportOf false, drawn := 0 } := by
  have hrange : componentInRange f value = false :=
    Bool.eq_false_iff.mpr (mt (componentInRange_iff_validComponent f value).mp h)
  simp [setcmpStore, hp, hrange]

/-- The value is not turned away: it is stored up to 99, and above that the field is left undetermined (R74, U3). -/
theorem setcmpStore_of_accepted {p : Params} {f : RecField} {value : Byte} (free : Nat) (r : Record)
    (h : p.setcmpValidates = false ∨ ValidComponent value.toNat f) :
    (setcmpStore p f value free r).response = reportOf true ∧
    (value.toNat ≤ 99 → (setcmpStore p f value free r).record.get f = .determined (bcdByte value.toNat)) ∧
    (99 < value.toNat → ((setcmpStore p f value free r).record.get f).written = false) := by
  have hcheck : (p.setcmpValidates && !componentInRange f value) = false := by
    rcases h with hp | hvalid
    · simp [hp]
    · simp [(componentInRange_iff_validComponent f value).mpr hvalid]
  by_cases hle : value.toNat ≤ 99
  · simp [setcmpStore, hcheck, hle, toBcd_eq_bcdByte hle]
  · simp [setcmpStore, hcheck, hle]

theorem exec_setcmp_eq (f : RecField) (value : Byte) (s : State) :
    exec (.setcmp (BitVec.ofNat 8 f.index) value) s =
      .next (s.carryOut (.read 0x00 8 (setcmpReply s.params f value))) := by
  cases f <;> rfl

/-- Settles O11: SETCMP is one read, and the cases are those of its answer and of the store after it. -/
theorem setcmpStoresSnapshotWithOneField : Obligations.SetcmpStoresSnapshotWithOneField := by
  intro f value s
  refine ⟨_, _, exec_setcmp_eq f value s, s.carryOut_read_trace .., s.carryOut_read_dev .., s.carryOut_read_answers ..,
    s.sameElsewhere_carryOut _, fun hfail => ?_, fun hok => ?_⟩
  · have hread := State.memRead_fst_of_failure 0x00 8 hfail
    rw [State.carryOut_read_record, State.carryOut_read_outbox, hread]
    exact ⟨rfl, Record.get_unspecified_written _, rfl⟩
  · obtain ⟨bs, hread, hbs⟩ := State.exists_deliverable_of_success hok
    have hholds := holds_snapshot hbs.1
    rw [State.carryOut_read_record, State.carryOut_read_outbox, hread, setcmpReply]
    refine ⟨bs, rfl, hbs, fun g hg => ?_, fun ⟨hp, hvalid⟩ => ?_, fun haccept => ?_⟩
    · rw [setcmpStore_get_other s.params value _ _ hg]
      exact hholds g
    · rw [setcmpStore_of_refused _ _ hp hvalid]
      exact ⟨hholds, rfl⟩
    · obtain ⟨hresponse, hstored⟩ := setcmpStore_of_accepted (s.memRead 0x00 8).2.draws (Record.snapshot bs) haccept
      exact ⟨congrArg (· :: s.outbox) hresponse, hstored⟩

/-- Settles O12: the successful read of O11, with the parameter's two values apart; a value in a field's range is at
most 99. -/
theorem setcmpValidationParameter : Obligations.SetcmpValidationParameter := by
  intro f value s hok
  obtain ⟨t, r, hexec, htrace, hdev, -, -, -, hsuccess⟩ := setcmpStoresSnapshotWithOneField f value s
  obtain ⟨bs, rfl, hbs, hother, hrefused, haccepted⟩ := hsuccess hok
  refine ⟨t, bs, hexec, hbs, htrace, hdev, hother, fun hp => haccepted (.inl hp), fun _ hvalid => ?_,
    fun hp hvalid => (hrefused ⟨hp, hvalid⟩).symm⟩
  obtain ⟨hresponse, hstored, -⟩ := haccepted (.inr hvalid)
  exact ⟨hresponse, hstored (validComponent_le hvalid)⟩

/-- Settles O13: the two answers of O11. -/
theorem setcmpResultAndFailedRead : Obligations.SetcmpResultAndFailedRead := by
  intro f value s
  obtain ⟨t, r, hexec, htrace, hdev, hanswers, helsewhere, hfailure, hsuccess⟩ :=
    setcmpStoresSnapshotWithOneField f value s
  refine ⟨t, hexec, fun hok hvalid => ?_, fun hfail => ?_⟩
  · obtain ⟨bs, -, -, -, -, haccepted⟩ := hsuccess hok
    have haccept : s.params.setcmpValidates = false ∨ ValidComponent value.toNat f :=
      (Bool.eq_false_or_eq_true _).symm.imp_right hvalid
    exact (haccepted haccept).1
  · obtain ⟨rfl, hrecord, houtbox⟩ := hfailure hfail
    exact ⟨houtbox, hrecord, hdev, htrace, hanswers, helsewhere⟩

end Sys2Proof.Machine
end

section
/-! SYNC (41_datetime_model.md R76, R77). -/

namespace Sys2Proof.Machine

open Sys2Proof.Safety

theorem Record.getElem?_sentBytes (r : Record) (k : Nat) (f : RecField) :
    (r.sentBytes k)[f.index]? = some ((r.get f).sent (k + f.index)) := by
  rw [Record.sentBytes, List.getElem?_map, RecField.getElem?_all, Option.map_some]

theorem Record.sentBytes_of_determined {r : Record} (k : Nat) (h : Determined r) :
    r.sentBytes k = RecField.all.map fun f => (r.get f).val :=
  List.map_congr_left fun f _ => if_pos (h f)

theorem exec_sync_eq (s : State) : exec .sync s = .next (s.carryOut (syncPlan s.draws s.record)) := rfl

theorem sync_sameRegister (s : State) {a : Nat} (h : 8 ≤ a) :
    SameRegister s (s.carryOut (syncPlan s.draws s.record)) a :=
  s.read_carryOut_of_not_writes fun hwrites => Nat.not_lt_of_le h hwrites.2

/-- Settles O17: SYNC is one write of the record's bytes, each of them its stored value. -/
theorem syncWritesTheRecord : Obligations.SyncWritesTheRecord := by
  intro s hdet
  refine ⟨_, exec_sync_eq s, State.carryOut_write_record .., ?_, fun hok => ⟨?_, fun f => ?_⟩,
    fun hfail => ⟨?_, fun a ha => ?_⟩, fun a => sync_sameRegister s, State.carryOut_write_answers ..,
    s.sameElsewhere_carryOut _⟩
  · rw [← Record.sentBytes_of_determined s.draws hdet]
    exact State.carryOut_write_trace ..
  · rw [syncPlan, State.carryOut_write_outbox, hok]
    rfl
  · rw [syncPlan, timeBase_eq, ← Nat.zero_add f.index, State.read_carryOut_write_of_success _ hok f.index_lt,
      Record.getElem?_sentBytes, RecByte.sent, if_pos (hdet f)]
  · rw [syncPlan, State.carryOut_write_outbox, hfail]
    rfl
  · exact State.read_carryOut_write_of_failure _ hfail (Nat.zero_le a) (by simpa using ha)

/-- Settles O18: the bytes sent are `Record.sentBytes`, and SYNC counts their eight numbers as drawn. -/
theorem syncSendsFreeBytesForUndetermined : Obligations.SyncSendsFreeBytesForUndetermined := by
  intro s
  refine ⟨_, s.record.sentBytes s.draws, exec_sync_eq s, rfl, State.carryOut_write_record ..,
    State.carryOut_write_trace .., State.carryOut_write_outbox .., fun f hf => ?_, fun f hf => ?_,
    fun a => sync_sameRegister s, s.sameElsewhere_carryOut _⟩
  · rw [Record.getElem?_sentBytes, RecByte.sent, if_pos hf]
  · refine ⟨s.draws + f.index, Nat.le_add_right .., ?_, ?_⟩
    · rw [syncPlan, State.carryOut_write_draws]
      exact Nat.add_lt_add_of_le_of_lt s.draws_le_afterAnswer f.index_lt
    · rw [Record.getElem?_sentBytes, RecByte.sent, hf]
      rfl

end Sys2Proof.Machine
end

section
/-! GETDT (41_datetime_model.md R78, R79; 30_encoding.md R45 to R47). -/

namespace Sys2Proof.Machine

open Sys2Proof.Safety

/-! The text. -/

theorem freeBytes_eq_map_range (k n : Nat) : freeBytes k n = (List.range n).map fun i => Config.freeByte (k + i) := by
  induction n generalizing k with
  | zero => rfl
  | succ n ih => simp [freeBytes, ih, List.range_succ_eq_map, Nat.add_assoc, Nat.add_comm 1]

theorem freeBytes_length (k n : Nat) : (freeBytes k n).length = n := by
  rw [freeBytes_eq_map_range, List.length_map, List.length_range]

theorem renderText_length (r : Record) : (renderText r).length = 19 := rfl

/-- The digits of a BCD byte's number are its nibbles (R40, R46). -/
theorem twoDigits_fromBcd {b : Byte} (h : BcdByte b) :
    twoDigits (fromBcd b) = [digitChar (b.toNat / 16), digitChar (b.toNat % 16)] := by
  obtain ⟨hhigh, hlow⟩ := h
  have htens : fromBcd b / 10 = b.toNat / 16 := by rw [fromBcd_eq]; omega
  have hones : fromBcd b % 10 = b.toNat % 16 := by rw [fromBcd_eq]; omega
  rw [twoDigits, htens, hones]

theorem exists_eight_bytes {bs : List Byte} (h : bs.length = 8) :
    ∃ hu se mi ho da mo ye wd, bs = [hu, se, mi, ho, da, mo, ye, wd] := by
  match bs, h with
  | [_, _, _, _, _, _, _, _], _ => exact ⟨_, _, _, _, _, _, _, _, rfl⟩

/-- The eight bytes of a snapshot are the eight bytes delivered, so they decode together. -/
theorem allBcd_snapshot_iff {bs : List Byte} (h : bs.length = 8) :
    allBcd (Record.snapshot bs) = true ↔ ∀ b ∈ bs, BcdByte b := by
  obtain ⟨hu, se, mi, ho, da, mo, ye, wd, rfl⟩ := exists_eight_bytes h
  have hall : allBcd (Record.snapshot [hu, se, mi, ho, da, mo, ye, wd]) =
      [hu, se, mi, ho, da, mo, ye, wd].all isBcd := rfl
  simp only [hall, List.all_eq_true, isBcd_iff_bcdByte]

/-- The 19 characters from the bytes read: each digit is the character of one nibble, and no byte's range is checked. -/
theorem renderText_snapshot {hu se mi ho da mo ye wd : Byte}
    (h : ∀ b ∈ [hu, se, mi, ho, da, mo, ye, wd], BcdByte b) :
    renderText (Record.snapshot [hu, se, mi, ho, da, mo, ye, wd]) =
      let tens (b : Byte) : Byte := digitChar (b.toNat / 16)
      let ones (b : Byte) : Byte := digitChar (b.toNat % 16)
      [0x32, 0x30, tens ye, ones ye, 0x2D, tens mo, ones mo, 0x2D, tens da, ones da, 0x54, tens ho, ones ho, 0x3A,
        tens mi, ones mi, 0x3A, tens se, ones se] := by
  simp only [List.forall_mem_cons] at h
  obtain ⟨-, hse, hmi, hho, hda, hmo, hye, -⟩ := h
  simp only [renderText, fieldDigits, Record.snapshot, Record.get_build, RecByte.determined, RecField.index,
    List.getD_cons_zero, List.getD_cons_succ, twoDigits_fromBcd, hse, hmi, hho, hda, hmo, hye, List.cons_append,
    List.nil_append]

theorem getdtRender_of_not_bcd (free : Nat) {r : Record} (h : allBcd r = false) :
    getdtRender free r = { record := r, response := freeResponse .ok free 19, drawn := 19 } := by
  simp [getdtRender, h]

/-- GETDT keeps the bytes read as the record and answers OK with 19 bytes, BCD or not; BCD bytes are rendered. -/
theorem getdtRender_ok (free : Nat) (r : Record) : (getdtRender free r).record = r ∧
    ∃ text, (getdtRender free r).response = { status := .ok, data := text } ∧ text.length = 19 ∧
      (allBcd r = true → text = renderText r) := by
  cases h : allBcd r
  · rw [getdtRender_of_not_bcd free h]
    exact ⟨rfl, _, rfl, freeBytes_length .., fun hbcd => by cases hbcd⟩
  · rw [getdtRender, h]
    exact ⟨rfl, _, rfl, renderText_length r, fun _ => rfl⟩

theorem exec_getdt_eq (s : State) : exec .getdt s = .next (s.carryOut (.read 0x00 8 getdtReply)) := rfl

/-- Settles O20: GETDT is one read; the text of BCD bytes is rendered digit by digit, no byte's range is checked. -/
theorem getdtRendersTheRegisters : Obligations.GetdtRendersTheRegisters := by
  intro s
  refine ⟨_, _, exec_getdt_eq s, s.carryOut_read_trace .., s.carryOut_read_dev .., s.carryOut_read_answers ..,
    s.sameElsewhere_carryOut _, fun hfail => ?_, fun hok => ?_⟩
  · have hread := State.memRead_fst_of_failure 0x00 8 hfail
    rw [State.carryOut_read_record, State.carryOut_read_outbox, hread]
    exact ⟨rfl, Record.get_unspecified_written _, _, freeBytes_length .., rfl⟩
  · obtain ⟨bs, hread, hbs⟩ := State.exists_deliverable_of_success hok
    have hlen := hbs.1
    obtain ⟨hu, se, mi, ho, da, mo, ye, wd, rfl⟩ := exists_eight_bytes hlen
    obtain ⟨hrecord, text, hresponse, htext, hrendered⟩ :=
      getdtRender_ok (s.memRead 0x00 8).2.draws (Record.snapshot [hu, se, mi, ho, da, mo, ye, wd])
    rw [State.carryOut_read_record, State.carryOut_read_outbox, hread, getdtReply, hrecord, hresponse]
    refine ⟨hu, se, mi, ho, da, mo, ye, wd, rfl, hbs, holds_snapshot hlen, text, htext, rfl, fun hbcd => ?_⟩
    exact (hrendered ((allBcd_snapshot_iff hlen).mpr hbcd)).trans (renderText_snapshot hbcd)

/-- Where nothing was read, or a byte read is not BCD, GETDT's text is 19 of the free values it draws (R79). -/
theorem getdtReply_of_unspecified {reply : Option (List Byte)} (free : Nat)
    (h : ∀ bs, reply = some bs → allBcd (Record.snapshot bs) = false) :
    ∃ k st, free ≤ k ∧ k + 19 ≤ free + (getdtReply free reply).drawn ∧
      (getdtReply free reply).response = freeResponse st k 19 := by
  cases reply with
  | none => exact ⟨free + 8, .fail, Nat.le_add_right .., Nat.le_refl _, rfl⟩
  | some bs =>
    rw [getdtReply, getdtRender_of_not_bcd free (h bs rfl)]
    exact ⟨free, .ok, Nat.le_refl _, Nat.le_refl _, rfl⟩

/-- Settles O21: either hypothesis makes the answer to GETDT's read one that leaves the text unspecified. -/
theorem getdtUnspecifiedText : Obligations.GetdtUnspecifiedText := by
  intro s t hexec hcase
  rw [exec_getdt_eq] at hexec
  cases hexec
  have hreply : ∀ bs, (s.memRead 0x00 8).1 = some bs → allBcd (Record.snapshot bs) = false := by
    intro bs hread
    rcases hcase with hfail | ⟨bs', htrace, b, hb, hbcd⟩
    · rw [State.memRead_fst_of_failure 0x00 8 hfail] at hread
      cases hread
    · rw [State.carryOut_read_trace, hread] at htrace
      cases htrace
      have hall := allBcd_snapshot_iff (State.length_of_memRead_eq_some hread)
      exact Bool.eq_false_iff.mpr fun h => hbcd (hall.mp h b hb)
  obtain ⟨k, st, hfree, hdrawn, hresponse⟩ := getdtReply_of_unspecified (s.memRead 0x00 8).2.draws hreply
  refine ⟨k, st, (s.draws_le_memRead 0x00 8).trans hfree, ?_, ?_⟩
  · rw [State.carryOut_read_draws]
    exact hdrawn
  · rw [State.carryOut_read_outbox, hresponse, freeResponse, freeBytes_eq_map_range]

end Sys2Proof.Machine
end

section
/-! SETALM (42_alarm_compare.md R90 to R93). -/

namespace Sys2Proof.Machine

open Sys2Proof.Safety

/-- The model's payload is the spec's: six fields in device-transfer order, then the year, the dayOfWeek or both (R92). -/
theorem payloadFields_eq_payload (p : AlarmPayload) : payloadFields p = payload p := by
  cases p <;> rfl

theorem alarmBytes_eq_map_payload (p : AlarmPayload) (r : Record) :
    alarmBytes p r = (payload p).map fun f => (r.get f).val := by
  rw [alarmBytes, payloadFields_eq_payload]

theorem exec_setalm_eq (d : DateTime) (s : State) :
    exec (.setalm d) s = .next (s.carryOut (setalmPlan s.params d s.record)) := rfl

/-- With valid operands SETALM is one write of the payload of the encoded record at 0x08. -/
theorem exec_setalm_of_allValid {d : DateTime} (s : State) (h : AllValid d) :
    exec (.setalm d) s = .next (s.carryOut (.write 0x08
      ((payload s.params.alarmPayload).map fun f => ((encodeRecord d s.record).2.get f).val) fun success =>
        { record := (encodeRecord d s.record).2, response := reportOf success, drawn := 0 })) := by
  rw [exec_setalm_eq, setalmPlan_of_allValid s.params s.record h, alarmBytes_eq_map_payload]

/-- With an operand out of range SETALM is `Encode` on the record and FAIL. -/
theorem exec_setalm_of_not_allValid {d : DateTime} (s : State) (h : ¬ AllValid d) :
    exec (.setalm d) s = .next { s with
      record := (encodeRecord d s.record).2, outbox := reportOf false :: s.outbox } := by
  rw [exec_setalm_eq, setalmPlan_of_not_allValid s.params s.record h]
  rfl

/-- A SETALM that does not validate is the SETDT of the same operands (R90). -/
theorem exec_setalm_eq_exec_setdt_of_not_allValid {d : DateTime} (s : State) (h : ¬ AllValid d) :
    exec (.setalm d) s = exec (.setdt d) s := by
  rw [exec_setalm_of_not_allValid s h, exec_setdt_eq, encodeRecord_fst_of_not_allValid s.record h]

/-- Settles O22: out of range, SETALM is SETDT; in range, it is one write of the record SETDT leaves. -/
theorem setalmValidatesThenWritesOnce : Obligations.SetalmValidatesThenWritesOnce := by
  intro d s
  by_cases hvalid : AllValid d
  · refine ⟨_, _, exec_setalm_of_allValid s hvalid, exec_setdt_eq d s, State.carryOut_write_record ..,
      absurd hvalid, fun _ => ⟨?_, State.carryOut_write_outbox .., State.carryOut_write_answers ..⟩, fun a ha => ?_,
      s.sameElsewhere_carryOut _⟩
    · rw [State.carryOut_write_record]
      exact State.carryOut_write_trace ..
    · exact s.read_carryOut_of_not_writes fun hwrites => Nat.not_lt_of_le hwrites.1 ha
  · have hsame := exec_setalm_eq_exec_setdt_of_not_allValid s hvalid
    exact ⟨_, _, exec_setalm_of_not_allValid s hvalid, hsame ▸ exec_setalm_of_not_allValid s hvalid, rfl,
      fun _ => ⟨rfl, rfl, rfl⟩, fun h => absurd h hvalid, fun _ _ => rfl, rfl, rfl, rfl⟩

/-- Settles O23: every field of the encoded record is reached, so the one write sends the operands' bytes. -/
theorem setalmPayloadByParameter : Obligations.SetalmPayloadByParameter := by
  intro d s hvalid
  have hstored (f : RecField) : (encodeRecord d s.record).2.get f = .determined (bcdByte (stored d f)) :=
    encodeRecord_get_of_reached s.record (reached_of_allValid hvalid f)
  refine ⟨_, _, exec_setalm_of_allValid s hvalid, State.carryOut_write_trace .., ?_, fun f => ?_,
    fun hok k => State.read_carryOut_write_of_success _ hok, fun hfail k hk => ?_, fun a ha => ?_⟩
  · exact List.map_congr_left fun f _ => congrArg RecByte.val (hstored f)
  · rw [State.carryOut_write_record]
    exact hstored f
  · exact State.read_carryOut_write_of_failure _ hfail (Nat.le_add_right ..) (Nat.add_lt_add_left hk _)
  · refine s.read_carryOut_of_not_writes fun ⟨hlo, hhi⟩ => ?_
    omega

/-- Settles O24: the two cases of the validation, with the transport's answer as the status of the write. -/
theorem setalmChecksBeforeTransaction : Obligations.SetalmChecksBeforeTransaction := by
  intro d s
  by_cases hvalid : AllValid d
  · refine ⟨_, exec_setalm_of_allValid s hvalid, absurd hvalid, fun _ =>
      ⟨_, s.transportAnswer, State.carryOut_write_trace .., fun hfail => ?_⟩⟩
    rw [State.carryOut_write_outbox, hfail]
    rfl
  · exact ⟨_, exec_setalm_of_not_allValid s hvalid, fun _ => ⟨rfl, rfl⟩, fun h => absurd h hvalid⟩

end Sys2Proof.Machine
end

section
/-! A transport failure is reported and nothing traps (60_exceptions.md R101, R104). -/

namespace Sys2Proof.Machine

open Sys2Proof.Safety

/-! A transport failure (R101). -/

/-- A failed write that reports the transport's answer is reported as FAIL. -/
theorem State.carryOut_write_outbox_of_failure {s : State} (addr : Nat) (bs : List Byte) (r : Record) (drawn : Nat)
    (h : s.transportAnswer = false) :
    (s.carryOut (.write addr bs fun success =>
      { record := r, response := reportOf success, drawn := drawn })).outbox =
        { status := .fail, data := [] } :: s.outbox := by
  rw [State.carryOut_write_outbox, h]
  rfl

/-- Settles O29: the failed reads are those of O13 and O20; SYNC and a valid SETALM each report the answer to one
write. -/
theorem transportFailureReportsFail : Obligations.TransportFailureReportsFail := by
  intro s hfail
  refine ⟨fun f value => ?_, ?_, ?_, fun d hvalid => ?_⟩
  · obtain ⟨t, hexec, -, hfailed⟩ := setcmpResultAndFailedRead f value s
    obtain ⟨houtbox, hrecord, hdev, -⟩ := hfailed hfail
    exact ⟨t, hexec, houtbox, hrecord, hdev⟩
  · obtain ⟨t, r, hexec, -, hdev, -, -, hfailed, -⟩ := getdtRendersTheRegisters s
    obtain ⟨-, hrecord, text, -, houtbox⟩ := hfailed hfail
    exact ⟨t, text, hexec, houtbox, hrecord, hdev⟩
  · refine ⟨_, exec_sync_eq s, State.carryOut_write_outbox_of_failure _ _ _ _ hfail, State.carryOut_write_record ..,
      fun a ha => ?_⟩
    exact State.read_carryOut_write_of_failure _ hfail (Nat.zero_le a) (by simpa using ha)
  · refine ⟨_, _, exec_setalm_of_allValid s hvalid, exec_setdt_eq d s,
      State.carryOut_write_outbox_of_failure _ _ _ _ hfail, State.carryOut_write_record .., fun k hk => ?_⟩
    exact State.read_carryOut_write_of_failure _ hfail (Nat.le_add_right ..) (by simpa using hk)

/-! No trap (R104). -/

/-- Settles O34: every command is a plan carried out, and that gives one response and leaves the other ports alone. -/
theorem everyCommandAnswersOnce : Obligations.EveryCommandAnswersOnce := by
  intro i s
  obtain ⟨⟨r, houtbox⟩, helsewhere⟩ := s.carryOut_ports (blockStep s.params i s.draws s.record)
  exact ⟨_, r, exec_eq_carryOut i s, houtbox, helsewhere⟩

/-- An incomplete frame is waited for (log entry 1). -/
theorem step_of_incomplete {s : State} (h : decode s.inbox = .incomplete) : step s = .next s.deviceMoves := by
  simp [step, h]

/-- Settles O35: whatever the decoder finds, the step ends in a next state; a command does because it answers. -/
theorem everyStepCompletes : Obligations.EveryStepCompletes := by
  intro s
  cases hdecode : decode s.inbox with
  | command i rest => exact ⟨_, (step_of_command hdecode).trans (exec_eq_carryOut i _)⟩
  | illegalOpcode op rest => exact ⟨_, step_of_illegalOpcode hdecode⟩
  | illegalField field rest => exact ⟨_, step_of_illegalField hdecode⟩
  | incomplete => exact ⟨_, step_of_incomplete hdecode⟩

end Sys2Proof.Machine
end

section
/-! A command after one history of responses and transactions and after another (10_state.md R16, 60_exceptions.md
R105). -/

namespace Sys2Proof.Machine

/-- The state with other responses given and other transactions issued so far. -/
def State.withHistory (s : State) (o : List Response) (tr : List Transaction) : State :=
  { s with outbox := o, trace := tr }

theorem State.transportAnswer_withHistory (s : State) (o : List Response) (tr : List Transaction) :
    (s.withHistory o tr).transportAnswer = s.transportAnswer := rfl

theorem State.afterAnswer_withHistory (s : State) (o : List Response) (tr : List Transaction) :
    (s.withHistory o tr).afterAnswer = s.afterAnswer.withHistory o tr := by
  cases h : s.answers <;> simp [State.afterAnswer, State.withHistory, State.spend, h]

theorem State.memRead_withHistory (s : State) (o : List Response) (tr : List Transaction) (addr n : Nat) :
    (s.withHistory o tr).memRead addr n =
      ((s.memRead addr n).1, (s.memRead addr n).2.withHistory o (.read addr n (s.memRead addr n).1 :: tr)) := by
  simp only [State.memRead, State.transportAnswer_withHistory, State.afterAnswer_withHistory]
  cases s.transportAnswer
  · rfl
  · rfl

theorem State.memWrite_withHistory (s : State) (o : List Response) (tr : List Transaction) (addr : Nat)
    (bs : List Byte) : (s.withHistory o tr).memWrite addr bs =
      ((s.memWrite addr bs).1, (s.memWrite addr bs).2.withHistory o (.write addr bs s.transportAnswer :: tr)) := by
  simp only [State.memWrite, State.transportAnswer_withHistory, State.afterAnswer_withHistory]
  cases s.transportAnswer
  · rfl
  · rfl

/-- What a plan adds to the history, and all else it does, is the same after every history. -/
theorem State.carryOut_withHistory (s : State) (p : Plan) : ∃ r ts, ∀ o tr,
    (s.withHistory o tr).carryOut p = (s.carryOut p).withHistory (r :: o) (ts ++ tr) := by
  cases p with
  | answer e => exact ⟨e.response, [], fun _ _ => rfl⟩
  | read addr n onReply =>
    refine ⟨(onReply (s.memRead addr n).2.draws (s.memRead addr n).1).response, [.read addr n (s.memRead addr n).1],
      fun o tr => ?_⟩
    rw [State.carryOut, State.memRead_withHistory]
    rfl
  | write addr bs onReply =>
    refine ⟨(onReply (s.memWrite addr bs).1).response, [.write addr bs s.transportAnswer], fun o tr => ?_⟩
    rw [State.carryOut, State.memWrite_withHistory]
    rfl

/-- Settles O36: the plan does not name the history, and carried out after the state's own history it adds the same
response and transactions as after the other. -/
theorem commandsRememberNoFailure : Obligations.CommandsRememberNoFailure := by
  intro i s o tr
  obtain ⟨r, ts, hadds⟩ := s.carryOut_withHistory (blockStep s.params i s.draws s.record)
  have hown := hadds s.outbox s.trace
  refine ⟨_, [r], ts, exec_eq_carryOut i s, congrArg State.outbox hown, congrArg State.trace hown, ?_⟩
  exact (exec_eq_carryOut i (s.withHistory o tr)).trans (congrArg Host.Outcome.next (hadds o tr))

end Sys2Proof.Machine
end

section
/-! The state right after reset (70_reset_and_hazards.md R120 to R122). -/

namespace Sys2Proof.Machine

open Sys2Proof.Safety

/-- Settles O38: the command port is empty, and the device's moves leave the registers of which nothing is known. -/
theorem resetLeavesRecordUnwritten : Obligations.ResetLeavesRecordUnwritten := by
  refine ⟨fun f => ?_, Memory.read_nil, rfl, rfl, step_of_incomplete rfl⟩
  cases f <;> rfl

/-- Settles O39: the registers, the transactions and the responses are empty lists. -/
theorem resetMeetsInvariant : Obligations.ResetMeetsInvariant where
  dev := State.reset_dev_wf
  trace := List.forall_mem_nil _
  outbox := List.forall_mem_nil _

end Sys2Proof.Machine
end

section
/-! A frame whose bytes are not all there (30_encoding.md R48, R49; 70_reset_and_hazards.md R121). -/

namespace Sys2Proof

/-! Too few operand bytes. -/

theorem decodeByte_of_length_lt (mk : Byte → Instr) {bs : List Byte} (h : bs.length < 1) :
    decodeByte mk bs = .incomplete := by
  cases bs with
  | nil => rfl
  | cons b bs => simp at h

theorem decodeComponent_of_length_lt {bs : List Byte} (h : bs.length < 2) : decodeComponent bs = .incomplete := by
  match bs with
  | [] => rfl
  | [_] => rfl
  | _ :: _ :: _ => simp at h

theorem decodeFields_of_length_lt (mk : DateTime → Instr) {bs : List Byte} (h : bs.length < 9) :
    decodeFields mk bs = .incomplete := by
  cases hdecode : decodeDateTime bs with
  | none => simp [decodeFields, hdecode]
  | some p =>
    have hlength : bs.length = 9 + p.2.length := by
      rw [decodeDateTime_eq_some_iff.mp hdecode, List.length_append]
      rfl
    omega

/-- Fewer bytes than the opcode byte calls for are an incomplete frame (log entry 1). -/
theorem decode_of_length_lt_frameLength {op : Byte} {bs : List Byte} {n : Nat} (hn : frameLength op = some n)
    (hlt : (op :: bs).length < n) : decode (op :: bs) = .incomplete := by
  have hop : op ∈ legalOpcodes := by
    by_contra hop
    rw [frameLength_of_notMem_legalOpcodes hop] at hn
    cases hn
  rw [List.length_cons] at hlt
  rcases mem_legalOpcodes_iff.mp hop with rfl | rfl | rfl | rfl | rfl | rfl | rfl <;> cases hn
  · exact decodeByte_of_length_lt _ (by omega)
  · exact decodeByte_of_length_lt _ (by omega)
  · exact decodeFields_of_length_lt _ (by omega)
  · exact decodeComponent_of_length_lt (by omega)
  · omega
  · omega
  · exact decodeFields_of_length_lt _ (by omega)

end Sys2Proof

namespace Sys2Proof.Machine

/-- Settles O43: in both cases the decoder finds an incomplete frame. -/
theorem incompleteFrameIsWaitedFor : Obligations.IncompleteFrameIsWaitedFor := by
  refine fun s op n => ⟨fun hempty => step_of_incomplete (by rw [hempty]; rfl), fun hhead hn hlt => ?_⟩
  obtain ⟨bs, hinbox⟩ := List.head?_eq_some_iff.mp hhead
  rw [hinbox] at hlt
  exact step_of_incomplete (by rw [hinbox, decode_of_length_lt_frameLength hn hlt])

end Sys2Proof.Machine
end

section
/-! Which commands write the clock (70_reset_and_hazards.md R128). -/

namespace Sys2Proof.Machine

open Sys2Proof.Safety

/-- Settles O31: a register in the run of a command's write is SYNC's or an alarm register of SETALM's. -/
theorem onlySyncWritesTimeRegisters : Obligations.OnlySyncWritesTimeRegisters := by
  intro i s
  refine ⟨_, exec_eq_carryOut i s, fun hsync a ha => s.read_carryOut_of_not_writes fun hwrites => ?_,
    fun hi a => s.read_carryOut_of_not_writes fun hwrites => ?_⟩
  · rcases writes_blockStep hwrites with ⟨rfl, -⟩ | ⟨d, -, hge, -⟩
    · exact hsync rfl
    · omega
  · rcases writes_blockStep hwrites with ⟨rfl, -⟩ | ⟨d, rfl, -⟩ <;> simp at hi

end Sys2Proof.Machine
end

section
/-! The commands one after another (70_reset_and_hazards.md R126, R127, R129, R130, R134). -/

namespace Sys2Proof.Machine

open Sys2Proof.Safety

/-! SYNC as the last command. -/

/-- A SYNC that is answered with success sets the clock to a determined record (R76). -/
theorem exists_sync_of_success {s : State} {rest : List Bool} (hdet : Determined s.record)
    (hanswers : s.answers = true :: rest) :
    ∃ u, exec .sync s = .next u ∧ ∀ f, u.dev.read f.index = some (s.record.get f).val := by
  obtain ⟨u, hexec, -, -, hok, -⟩ := syncWritesTheRecord s hdet
  exact ⟨u, hexec, (hok (State.transportAnswer_of_stated hanswers)).2⟩

/-- Settles O19: O17 for each of the two commands; the second finds the record of the first and the next answer. -/
theorem failedSyncCanBeRepeated : Obligations.FailedSyncCanBeRepeated := by
  intro s rest hdet hanswers
  obtain ⟨t, hexec, hrecord, htrace, -, hfail, -, hanswers', -⟩ := syncWritesTheRecord s hdet
  rw [hanswers, List.tail_cons] at hanswers'
  have hanswer := State.transportAnswer_of_stated hanswers
  have hanswer' := State.transportAnswer_of_stated hanswers'
  obtain ⟨u, hexec', -, htrace', hok, -⟩ := syncWritesTheRecord t (hrecord ▸ hdet)
  rw [hrecord, hanswer', htrace, hanswer] at htrace'
  rw [hrecord] at hok
  exact ⟨t, u, _, hexec, hexec', hrecord, (hfail hanswer).2, (hok hanswer').2, htrace'⟩

/-- Settles O10: a SETALM that does not validate is the SETDT of O7, and the SYNC writes each byte of the record O7
describes. -/
theorem failedSetdtThenSyncWritesMixture : Obligations.FailedSetdtThenSyncWritesMixture := by
  intro i d s rest hi hdet hvalid hanswers
  have hsetdt : exec i s = exec (.setdt d) s := by
    rcases hi with rfl | rfl
    · rfl
    · exact exec_setalm_eq_exec_setdt_of_not_allValid s hvalid
  obtain ⟨t, hexec, hnew, -, hold, -, hfail, hframe⟩ := setdtStoresUpToFirstFailure d s
  have hdet' : Determined t.record := by
    intro f
    by_cases hf : Reached d f
    · rw [hnew f hf]
      rfl
    · rw [hold f hf]
      exact hdet f
  have hanswers' : t.answers = true :: rest := (congrArg State.answers hframe).trans hanswers
  obtain ⟨u, hsync, hregister⟩ := exists_sync_of_success hdet' hanswers'
  refine ⟨t, u, hsetdt.trans hexec, hfail hvalid, hsync, fun f hf => ⟨hnew f hf, ?_⟩, fun f hf => ⟨hold f hf, ?_⟩⟩
  · rw [hregister f, hnew f hf]
    rfl
  · rw [hregister f, hold f hf]

/-- A SETALM with valid operands encodes all of them and uses up one of the transport's answers (R90). -/
theorem exists_setalm_of_allValid {d : DateTime} (s : State) (h : AllValid d) :
    ∃ t, exec (.setalm d) s = .next t ∧ t.answers = s.answers.tail ∧
      ∀ f, t.record.get f = .determined (bcdByte (stored d f)) := by
  refine ⟨_, exec_setalm_of_allValid s h, State.carryOut_write_answers .., fun f => ?_⟩
  rw [State.carryOut_write_record]
  exact encodeRecord_get_of_reached s.record (reached_of_allValid h f)

/-- Settles O26: SETALM encodes its operands over whatever SETDT left, and the SYNC writes that record. -/
theorem setalmThenSyncSetsClockToAlarm : Obligations.SetalmThenSyncSetsClockToAlarm := by
  intro c d s rest hvalid hanswers
  obtain ⟨r, hsetdt, hr⟩ : ∃ r, exec (.setdt c) s = .next r ∧ r.answers = s.answers := ⟨_, exec_setdt_eq c s, rfl⟩
  obtain ⟨t, hsetalm, ht, hrecord⟩ := exists_setalm_of_allValid r hvalid
  rw [hr, hanswers, List.tail_cons] at ht
  obtain ⟨u, hsync, hregister⟩ := exists_sync_of_success (fun f => congrArg RecByte.written (hrecord f)) ht
  exact ⟨r, t, u, hsetdt, hsetalm, hsync, fun f => (hregister f).trans (congrArg (some ·.val) (hrecord f))⟩

/-! SETCMP and GETDT, which take the record from the device. -/

/-- A record byte that holds the byte delivered holds the register's, where that is determined (R23). -/
theorem get_of_deliverable {s : State} {bs : List Byte} {r : Record} {f : RecField} {b : Byte} (hbs : Deliverable s bs)
    (hr : ∃ b', bs[f.index]? = some b' ∧ r.get f = .determined b') (hb : s.dev.read f.index = some b) :
    r.get f = .determined b := by
  obtain ⟨-, hdelivered⟩ := hbs
  obtain ⟨b', hb', hget⟩ := hr
  have hsame : some b' = some b := hb'.symm.trans (hdelivered f.index b f.index_lt hb)
  rw [hget, Option.some.inj hsame]

/-- Settles O49: O12 from the state SETDT leaves, whose device and transport are those it found. -/
theorem setcmpLosesUnsyncedSetdt : Obligations.SetcmpLosesUnsyncedSetdt := by
  intro c f value s hok
  obtain ⟨t, bs, hexec, hbs, htrace, -, hother, -⟩ := setcmpValidationParameter f value
    { s with record := (encodeRecord c s.record).2, outbox := reportOf (encodeRecord c s.record).1 :: s.outbox } hok
  exact ⟨_, t, bs, exec_setdt_eq c s, hexec, htrace, hbs, hother⟩

/-- Settles O16: the record SETCMP leaves is determined in the one field by O11's store and in the others by its snapshot,
and the SYNC writes it over whatever the device holds by then. -/
theorem setcmpThenSyncSetsClockBack : Obligations.SetcmpThenSyncSetsClockBack := by
  intro f value b s m rest hvalue hp hanswers hdev
  obtain ⟨t, r, hexec, -, -, ht, -, -, hsuccess⟩ := setcmpStoresSnapshotWithOneField f value s
  obtain ⟨bs, -, hbs, hother, -, haccepted⟩ := hsuccess (State.transportAnswer_of_stated hanswers)
  obtain ⟨-, hstored, -⟩ := haccepted (.inl hp)
  have hsame : t.record.get f = .determined (bcdByte value.toNat) := hstored hvalue
  have hrest (g : RecField) (hg : g ≠ f) : t.record.get g = .determined (b g) :=
    get_of_deliverable hbs (hother g hg) (hdev g)
  have hdet : Determined t.record := by
    intro g
    by_cases hg : g = f
    · rw [hg, hsame]
      rfl
    · rw [hrest g hg]
      rfl
  rw [hanswers, List.tail_cons] at ht
  obtain ⟨u, hsync, hregister⟩ := exists_sync_of_success (s := { t with dev := m }) hdet ht
  exact ⟨t, u, hexec, hsync, (hregister f).trans (congrArg (some ·.val) hsame),
    fun g hg => (hregister g).trans (congrArg (some ·.val) (hrest g hg))⟩

end Sys2Proof.Machine
end

section
/-! A transaction and a plan carried out on two states that differ in the record alone (70_reset_and_hazards.md R120,
R127). -/

namespace Sys2Proof.Machine

open Sys2Proof.Safety

theorem State.afterAnswer_setRecord (s : State) (r : Record) :
    (s.setRecord r).afterAnswer = s.afterAnswer.setRecord r := by
  cases h : s.answers <;> simp [State.afterAnswer, State.setRecord, State.spend, h]

/-- The transport does not see the record: a read is the same over every record. -/
theorem State.memRead_setRecord (s : State) (r : Record) (addr n : Nat) :
    (s.setRecord r).memRead addr n = ((s.memRead addr n).1, (s.memRead addr n).2.setRecord r) := by
  have hanswer : (s.setRecord r).transportAnswer = s.transportAnswer := rfl
  simp only [State.memRead, hanswer, State.afterAnswer_setRecord]
  cases s.transportAnswer
  · rfl
  · rfl

/-- The transport does not see the record: a write of given bytes is the same over every record. -/
theorem State.memWrite_setRecord (s : State) (r : Record) (addr : Nat) (bs : List Byte) :
    (s.setRecord r).memWrite addr bs = ((s.memWrite addr bs).1, (s.memWrite addr bs).2.setRecord r) := by
  have hanswer : (s.setRecord r).transportAnswer = s.transportAnswer := rfl
  simp only [State.memWrite, hanswer, State.afterAnswer_setRecord]
  cases s.transportAnswer
  · rfl
  · rfl

/-- A plan that reads replaces the record it finds. -/
theorem State.carryOut_read_setRecord (s : State) (r : Record) (addr n : Nat)
    (onReply : Nat → Option (List Byte) → Ending) :
    (s.setRecord r).carryOut (.read addr n onReply) = s.carryOut (.read addr n onReply) := by
  rw [State.carryOut, State.memRead_setRecord]
  rfl

/-- Settles O15: the plans of SETCMP and GETDT read, so they replace the record; what they replace it with is O11's and
O20's. -/
theorem setcmpAndGetdtDiscardTheRecord : Obligations.SetcmpAndGetdtDiscardTheRecord := by
  intro f value s r
  have hsetcmp : exec (.setcmp (BitVec.ofNat 8 f.index) value) (s.setRecord r) =
      exec (.setcmp (BitVec.ofNat 8 f.index) value) s := by
    rw [exec_setcmp_eq, exec_setcmp_eq, State.carryOut_read_setRecord]
    rfl
  have hgetdt : exec .getdt (s.setRecord r) = exec .getdt s := by
    rw [exec_getdt_eq, exec_getdt_eq, State.carryOut_read_setRecord]
  obtain ⟨t, _, hexec, -, -, -, -, -, hread⟩ := setcmpStoresSnapshotWithOneField f value s
  obtain ⟨u, _, hexec', -, -, -, -, -, hread'⟩ := getdtRendersTheRegisters s
  refine ⟨t, u, hexec, hsetcmp.trans hexec, fun hok g b hg hb => ?_, hexec', hgetdt.trans hexec', fun hok g b hb => ?_⟩
  · obtain ⟨bs, -, hbs, hother, -⟩ := hread hok
    exact get_of_deliverable hbs (hother g hg) hb
  · obtain ⟨hu, se, mi, ho, da, mo, ye, wd, -, hbs, hholds, -⟩ := hread' hok
    exact get_of_deliverable hbs (hholds g) hb

end Sys2Proof.Machine
end

section
/-! Records that agree but for the stored values of undetermined bytes (70_reset_and_hazards.md R120): no command's plan
tells them apart. -/

namespace Sys2Proof.Safety

open Sys2Proof.Machine

/-- The records differ at most in values no rule has determined. -/
def AgreeRecord (r r' : Record) : Prop := ∀ f, AgreeByte (r.get f) (r'.get f)

/-- The commands end alike: the same response, as many free values drawn, records that agree. -/
structure AgreeEnding (e e' : Ending) : Prop where
  record : AgreeRecord e.record e'.record
  response : e.response = e'.response
  drawn : e.drawn = e'.drawn

/-- The plans ask for the same transaction, if any, and end alike on the same answer. -/
inductive AgreePlan : Plan → Plan → Prop where
  | answer {e e' : Ending} (h : AgreeEnding e e') : AgreePlan (.answer e) (.answer e')
  | read (addr n : Nat) {onReply onReply' : Nat → Option (List Byte) → Ending}
      (h : ∀ free reply, AgreeEnding (onReply free reply) (onReply' free reply)) :
      AgreePlan (.read addr n onReply) (.read addr n onReply')
  | write (addr : Nat) (bs : List Byte) {onReply onReply' : Bool → Ending}
      (h : ∀ success, AgreeEnding (onReply success) (onReply' success)) :
      AgreePlan (.write addr bs onReply) (.write addr bs onReply')

theorem AgreeByte.refl (b : RecByte) : AgreeByte b b := ⟨rfl, fun _ => rfl⟩

theorem AgreeRecord.refl (r : Record) : AgreeRecord r r := fun f => .refl (r.get f)

theorem AgreeEnding.refl (e : Ending) : AgreeEnding e e := ⟨.refl e.record, rfl, rfl⟩

/-- States that agree are one state with two records that agree. -/
theorem agree_iff {s s' : State} : Agree s s' ↔ ∃ r, AgreeRecord s.record r ∧ s' = s.setRecord r := by
  constructor
  · rintro ⟨hrecord, hs⟩
    refine ⟨s'.record, hrecord, ?_⟩
    rw [hs]
    rfl
  · rintro ⟨r, hrecord, rfl⟩
    exact ⟨hrecord, rfl⟩

/-! Carrying plans out. -/

theorem AgreeEnding.finish {e e' : Ending} (h : AgreeEnding e e') (s : State) (r : Record) :
    Agree (s.finish e) ((s.setRecord r).finish e') := by
  refine ⟨h.record, ?_⟩
  rw [State.finish, State.finish, h.response, h.drawn]
  rfl

theorem AgreePlan.carryOut {p p' : Plan} (h : AgreePlan p p') (s : State) (r : Record) :
    Agree (s.carryOut p) ((s.setRecord r).carryOut p') := by
  cases h with
  | answer h => exact h.finish s r
  | read addr n h =>
    rw [State.carryOut, State.carryOut, State.memRead_setRecord]
    exact (h _ _).finish _ r
  | write addr bs h =>
    rw [State.carryOut, State.carryOut, State.memWrite_setRecord]
    exact (h _).finish _ r

/-! What the commands make of the record. -/

theorem AgreeByte.sent_eq {b b' : RecByte} (h : AgreeByte b b') (k : Nat) : b.sent k = b'.sent k := by
  obtain ⟨hwritten, hval⟩ := h
  unfold RecByte.sent
  rw [← hwritten]
  split
  next hb => exact hval hb
  next => rfl

theorem AgreeRecord.sentBytes_eq {r r' : Record} (h : AgreeRecord r r') (k : Nat) : r.sentBytes k = r'.sentBytes k :=
  List.map_congr_left fun f _ => (h f).sent_eq _

theorem AgreeRecord.encodeRecord {r r' : Record} (h : AgreeRecord r r') (d : DateTime) :
    AgreeRecord (encodeRecord d r).2 (encodeRecord d r').2 := by
  intro f
  by_cases hf : Reached d f
  · rw [encodeRecord_get_of_reached r hf, encodeRecord_get_of_reached r' hf]
    exact .refl _
  · rw [encodeRecord_get_of_not_reached r hf, encodeRecord_get_of_not_reached r' hf]
    exact h f

theorem encodeRecord_fst_eq (d : DateTime) (r r' : Record) : (encodeRecord d r).1 = (encodeRecord d r').1 := by
  rw [encodeRecord, encodeRecord, encodeFields_fst, encodeFields_fst]

/-- Valid operands replace every byte of the record. -/
theorem encodeRecord_snd_eq_of_allValid {d : DateTime} (r r' : Record) (h : AllValid d) :
    (encodeRecord d r).2 = (encodeRecord d r').2 :=
  Record.ext_get fun f => by
    rw [encodeRecord_get_of_reached r (reached_of_allValid h f), encodeRecord_get_of_reached r' (reached_of_allValid h f)]

/-- On records that agree every command has plans that agree: SYNC sends a free byte for an undetermined one, SETALM sends
bytes `Encode` has just written, and no other command sends or answers a byte of the record it finds. -/
theorem AgreeRecord.agreePlan_blockStep {r r' : Record} (h : AgreeRecord r r') (p : Params) (i : Instr) (free : Nat) :
    AgreePlan (blockStep p i free r) (blockStep p i free r') := by
  cases i with
  | tobcd d =>
    simp only [blockStep, tobcdPlan]
    split
    · exact .answer ⟨h, rfl, rfl⟩
    · exact .answer ⟨h, rfl, rfl⟩
  | frombcd b =>
    simp only [blockStep, frombcdPlan]
    split
    · exact .answer ⟨h, rfl, rfl⟩
    · exact .answer ⟨h, rfl, rfl⟩
  | setdt d => exact .answer ⟨h.encodeRecord d, congrArg reportOf (encodeRecord_fst_eq d r r'), rfl⟩
  | setcmp field value =>
    simp only [blockStep, setcmpPlan]
    split
    · exact .read _ _ fun _ _ => .refl _
    · exact .answer ⟨h, rfl, rfl⟩
  | sync =>
    simp only [blockStep, syncPlan, h.sentBytes_eq free]
    exact .write _ _ fun _ => ⟨h, rfl, rfl⟩
  | getdt => exact .read _ _ fun _ _ => .refl _
  | setalm d =>
    by_cases hvalid : AllValid d
    · simp only [blockStep, setalmPlan_of_allValid p _ hvalid, encodeRecord_snd_eq_of_allValid r r' hvalid]
      exact .write _ _ fun _ => .refl _
    · simp only [blockStep, setalmPlan_of_not_allValid p _ hvalid]
      exact .answer ⟨h.encodeRecord d, rfl, rfl⟩

/-- Settles O37: the two states give the command plans that agree, and these leave states that agree. -/
theorem undeterminedValuesAreNeverObserved : Obligations.UndeterminedValuesAreNeverObserved := by
  intro i s s' hagree
  obtain ⟨r, hrecord, rfl⟩ := agree_iff.mp hagree
  exact ⟨_, _, exec_eq_carryOut i s, exec_eq_carryOut i _, (hrecord.agreePlan_blockStep s.params i s.draws).carryOut s r⟩

end Sys2Proof.Safety
end

section
/-! The BCD codec outside its two domains (93_implementation_defined.md U1, U2; log entries 3, 4 and 5). -/

namespace Sys2Proof.Machine

open Sys2Proof.Safety

theorem tobcdPlan_of_lt {d : Byte} (free : Nat) (r : Record) (h : 99 < d.toNat) :
    tobcdPlan d free r = .answer { record := r, response := freeResponse .ok free 1, drawn := 1 } :=
  if_neg (Nat.not_le_of_lt h)

theorem frombcdPlan_of_not_bcdByte {b : Byte} (free : Nat) (r : Record) (h : ¬ BcdByte b) :
    frombcdPlan b free r = .answer { record := r, response := freeResponse .ok free 1, drawn := 1 } := by
  have hbcd : isBcd b = false := Bool.eq_false_iff.mpr (mt (isBcd_iff_bcdByte b).mp h)
  rw [frombcdPlan, hbcd]

/-- A command that ends at once with one free byte draws it fresh and answers OK; it changes nothing else. -/
theorem exec_of_blockStep_eq_freeByte {i : Instr} {s : State}
    (h : blockStep s.params i s.draws s.record =
      .answer { record := s.record, response := freeResponse .ok s.draws 1, drawn := 1 }) :
    exec i s = .next { s with
      draws := s.draws + 1, outbox := { status := .ok, data := [Config.freeByte s.draws] } :: s.outbox } := by
  rw [exec_eq_carryOut, h]
  rfl

/-- Settles O6: outside its domain either command has the plan that ends at once with one free byte. -/
theorem codecOutOfDomainAnswersFreeByte : Obligations.CodecOutOfDomainAnswersFreeByte := fun _ s =>
  ⟨fun hlt => exec_of_blockStep_eq_freeByte (tobcdPlan_of_lt s.draws s.record hlt),
    fun hbcd => exec_of_blockStep_eq_freeByte (frombcdPlan_of_not_bcdByte s.draws s.record hbcd)⟩

end Sys2Proof.Machine
end

section
/-! The frames of the worked examples (40_bcd_codec.md, 41_datetime_model.md, 42_alarm_compare.md). -/

namespace Sys2Proof

/-- Settles O47: each frame is, byte for byte, the encoding of its command, and each command is well-formed. -/
theorem workedExampleFramesDecode : Obligations.WorkedExampleFramesDecode := by
  refine ⟨?_, ?_, ?_, ?_, ?_, ?_, ?_⟩ <;> exact decode_eq_command_iff.mpr ⟨rfl, rfl⟩

end Sys2Proof
end
